-- ==== Sys2Proof/Word.lean ====
section
/-! DEFINITION. The word types of the block FSE: bytes of the store, 16-bit marker candidates, 32-bit command and response words. -/

namespace Sys2Proof

/-- One byte of the store (20_memory.md R40). -/
abbrev Byte := BitVec 8

/-- A 16-bit marker candidate, and the N and VAL fields (30_encoding.md R60, R67, R70). -/
abbrev Half := BitVec 16

/-- A command word or a response word (30_encoding.md R67, R70). -/
abbrev Word := BitVec 32

end Sys2Proof
end

