-- ==== Sys2Proof/Syntax.lean ====
section
/-! DEFINITION. The fourteen commands of the block, one constructor per row of the opcode map (30_encoding.md R69). -/

namespace Sys2Proof

/-- A command. A count or offset N is the unsigned integer of 30_encoding.md R68 (its range is checked in
`Instr.WellFormed`); a data byte B is a byte "stored as is". -/
inductive Instr where
  /-- LENR, 40_buffer.md R100. -/
  | lenr
  /-- LENW, 40_buffer.md R101. -/
  | lenw
  /-- RDPTR, 40_buffer.md R102. -/
  | rdptr
  /-- WRPTR, 40_buffer.md R103. -/
  | wrptr
  /-- PEEK N, 40_buffer.md R104. -/
  | peek (n : Nat)
  /-- POKE N, B, 40_buffer.md R105. -/
  | poke (n : Nat) (b : Byte)
  /-- SEEK N, 40_buffer.md R106. -/
  | seek (n : Nat)
  /-- PUT B, 40_buffer.md R107. -/
  | put (b : Byte)
  /-- CONSUME N, 40_buffer.md R108. -/
  | consume (n : Nat)
  /-- COMPACT, 40_buffer.md R109. -/
  | compact
  /-- REWIND, 40_buffer.md R110. -/
  | rewind
  /-- SCAN, 41_scanner.md R134. -/
  | scan
  /-- SYNC, 42_sync.md R150. -/
  | sync
  /-- STAT, 43_system.md R170. -/
  | stat
  deriving DecidableEq, Repr

end Sys2Proof
end

