-- ==== Sys2Proof/WellFormed.lean ====
section
/-! DEFINITION. Which commands have an encoding: a count or offset must fit the 16-bit field N (30_encoding.md R67, R68). -/

namespace Sys2Proof

/-- N is an unsigned integer 0..65535 (30_encoding.md R68). -/
abbrev fitsCount (n : Nat) : Prop := n < 65536

/-- The operands fit their fields; a byte operand fits by its type. -/
def Instr.wellFormed : Instr → Bool
  | .lenr => true
  | .lenw => true
  | .rdptr => true
  | .wrptr => true
  | .peek n => decide (fitsCount n)
  | .poke n _ => decide (fitsCount n)
  | .seek n => decide (fitsCount n)
  | .put _ => true
  | .consume n => decide (fitsCount n)
  | .compact => true
  | .rewind => true
  | .scan => true
  | .sync => true
  | .stat => true

/-- The command has an encoding. -/
abbrev Instr.WellFormed (i : Instr) : Prop := i.wellFormed = true

end Sys2Proof
end

