-- ==== Sys2Proof/Decode.lean ====
section
/-! DEFINITION. The command word (30_encoding.md R67 to R72, R76): its three fields, the total decoder that rejects by
name, and the encoder. A command travels as one 32-bit word on a 32-bit port (10_state.md R30), so there is no byte order. -/

namespace Sys2Proof

/-- Why a word is none of the fourteen commands. Either way the block answers ILLEGAL_CMD (60_exceptions.md R180). -/
inductive DecodeError where
  /-- The OP value is not in the opcode map (30_encoding.md R71). -/
  | reservedOp
  /-- The OP value is in the map, but a field the command does not use is not zero (30_encoding.md R72). -/
  | unusedFieldNonzero
  deriving DecidableEq, Repr

/-- `cmd[31:24]` (30_encoding.md R67). -/
def opField (w : Word) : BitVec 8 := w.extractLsb' 24 8

/-- `cmd[23:16]` (30_encoding.md R67). -/
def byteField (w : Word) : Byte := w.extractLsb' 16 8

/-- `cmd[15:0]` (30_encoding.md R67). -/
def countField (w : Word) : Half := w.extractLsb' 0 16

/-- The word with these three fields (30_encoding.md R67). -/
def packCommand (op : BitVec 8) (b : Byte) (n : Half) : Word := op ++ b ++ n

/-- A command that uses neither B nor N: both must be zero (30_encoding.md R72). -/
def decodeBare (b : Byte) (n : Half) (i : Instr) : Except DecodeError Instr :=
  if b = 0 ∧ n = 0 then .ok i else .error .unusedFieldNonzero

/-- A command that uses N only: B must be zero (30_encoding.md R72). -/
def decodeCount (b : Byte) (i : Instr) : Except DecodeError Instr :=
  if b = 0 then .ok i else .error .unusedFieldNonzero

/-- A command that uses B only: N must be zero (30_encoding.md R72). -/
def decodeByte (n : Half) (i : Instr) : Except DecodeError Instr :=
  if n = 0 then .ok i else .error .unusedFieldNonzero

/-- The opcode map of 30_encoding.md R69 over the three fields; the last arm refuses (R71). -/
def decodeFields (op : BitVec 8) (b : Byte) (n : Half) : Except DecodeError Instr :=
  match op with
  | 0x01#8 => decodeBare b n .lenr
  | 0x02#8 => decodeBare b n .lenw
  | 0x03#8 => decodeBare b n .rdptr
  | 0x04#8 => decodeBare b n .wrptr
  | 0x05#8 => decodeCount b (.peek n.toNat)
  | 0x06#8 => .ok (.poke n.toNat b)
  | 0x07#8 => decodeCount b (.seek n.toNat)
  | 0x08#8 => decodeByte n (.put b)
  | 0x09#8 => decodeCount b (.consume n.toNat)
  | 0x0A#8 => decodeBare b n .compact
  | 0x0B#8 => decodeBare b n .rewind
  | 0x10#8 => decodeBare b n .scan
  | 0x11#8 => decodeBare b n .sync
  | 0x1F#8 => decodeBare b n .stat
  | _ => .error .reservedOp

/-- The decoder: total, every word is exactly one of the fourteen commands or illegal (30_encoding.md R72). -/
def decode (w : Word) : Except DecodeError Instr := decodeFields (opField w) (byteField w) (countField w)

/-- The OP value of a command (30_encoding.md R69). -/
def Instr.opcode : Instr → BitVec 8
  | .lenr => 0x01#8
  | .lenw => 0x02#8
  | .rdptr => 0x03#8
  | .wrptr => 0x04#8
  | .peek _ => 0x05#8
  | .poke _ _ => 0x06#8
  | .seek _ => 0x07#8
  | .put _ => 0x08#8
  | .consume _ => 0x09#8
  | .compact => 0x0A#8
  | .rewind => 0x0B#8
  | .scan => 0x10#8
  | .sync => 0x11#8
  | .stat => 0x1F#8

/-- The byte a command puts in field B: its data byte, or 0 (30_encoding.md R67). -/
def Instr.byteOperand : Instr → Byte
  | .poke _ b => b
  | .put b => b
  | .lenr | .lenw | .rdptr | .wrptr | .peek _ | .seek _ | .consume _ | .compact | .rewind | .scan | .sync | .stat => 0

/-- The number a command puts in field N: its count or offset, or 0 (30_encoding.md R67). -/
def Instr.countOperand : Instr → Nat
  | .peek n => n
  | .poke n _ => n
  | .seek n => n
  | .consume n => n
  | .lenr | .lenw | .rdptr | .wrptr | .put _ | .compact | .rewind | .scan | .sync | .stat => 0

/-- The word of a well-formed command (30_encoding.md R67 to R69). -/
def encode (i : Instr) : Word := packCommand i.opcode i.byteOperand (BitVec.ofNat 16 i.countOperand)

/-- `match` of a command's row in the opcode map (30_encoding.md R69). -/
def Instr.rowMatch (i : Instr) : Word := packCommand i.opcode 0 0

/-- `mask` of a command's row in the opcode map (30_encoding.md R69): a used field is not compared. -/
def Instr.rowMask : Instr → Word
  | .peek _ | .seek _ | .consume _ => 0xFFFF0000#32
  | .poke _ _ => 0xFF000000#32
  | .put _ => 0xFF00FFFF#32
  | .lenr | .lenw | .rdptr | .wrptr | .compact | .rewind | .scan | .sync | .stat => 0xFFFFFFFF#32

/-- The opcode map as 30_encoding.md R69 prints it: a row's match, its mask, and the command it stands for, from the
fields B and N of the word. -/
def opcodeMap : List (Word × Word × (Byte → Nat → Instr)) :=
  [(0x01000000#32, 0xFFFFFFFF#32, fun _ _ => .lenr),
   (0x02000000#32, 0xFFFFFFFF#32, fun _ _ => .lenw),
   (0x03000000#32, 0xFFFFFFFF#32, fun _ _ => .rdptr),
   (0x04000000#32, 0xFFFFFFFF#32, fun _ _ => .wrptr),
   (0x05000000#32, 0xFFFF0000#32, fun _ n => .peek n),
   (0x06000000#32, 0xFF000000#32, fun b n => .poke n b),
   (0x07000000#32, 0xFFFF0000#32, fun _ n => .seek n),
   (0x08000000#32, 0xFF00FFFF#32, fun b _ => .put b),
   (0x09000000#32, 0xFFFF0000#32, fun _ n => .consume n),
   (0x0A000000#32, 0xFFFFFFFF#32, fun _ _ => .compact),
   (0x0B000000#32, 0xFFFFFFFF#32, fun _ _ => .rewind),
   (0x10000000#32, 0xFFFFFFFF#32, fun _ _ => .scan),
   (0x11000000#32, 0xFFFFFFFF#32, fun _ _ => .sync),
   (0x1F000000#32, 0xFFFFFFFF#32, fun _ _ => .stat)]

/-- The OP values of 30_encoding.md R71: every value that is not in the opcode map. -/
def reservedOp (op : BitVec 8) : Bool :=
  op.toNat == 0 || (0x0C ≤ op.toNat && op.toNat ≤ 0x0F) || (0x12 ≤ op.toNat && op.toNat ≤ 0x1E) || 0x20 ≤ op.toNat

/-- The instruction the decoder reads from an opcode-table word of `nbits` bits: every bit above `nbits` is 0. A number
that does not fit 32 bits is no command word (30_encoding.md R76). -/
def decodeTableWord (nbits w : Nat) : Option Instr :=
  if w % 2 ^ nbits < 2 ^ 32 then (decode (BitVec.ofNat 32 (w % 2 ^ nbits))).toOption else none

end Sys2Proof
end

