-- ==== Sys2Proof/Config.lean ====
section
/-! DEFINITION. What a build fixes (00_scope.md section 4) and the one free value of the spec. -/

namespace Sys2Proof.Config

/-- The two parameters of the hardware (00_scope.md R6, R8). "There is no optional feature and no other parameter." -/
structure Build where
  /-- PAYLOAD_SIZE, the payload bytes of a raw frame (00_scope.md R6). -/
  payloadSize : Nat
  /-- CAPACITY, written C, the bytes of the store (00_scope.md R8). -/
  capacity : Nat
  deriving DecidableEq, Repr

/-- The reference configuration REF with C = 480 (00_scope.md R6, R11). -/
def reference : Build := { payloadSize := 57, capacity := 480 }

/-- The test configuration T (00_scope.md R11). -/
def testT : Build := { payloadSize := 3, capacity := 16 }

/-- The content of index `i` of the store right after reset number `draw`, unspecified by the spec: a free value,
never evaluated (10_state.md R29; 93_implementation_defined.md U4; log entry 2). -/
opaque resetByte (draw i : Nat) : Byte

end Sys2Proof.Config
end

