-- ==== Sys2Proof/Machine/State.lean ====
section
/-! DEFINITION. The state of the block FSE as plain data (10_state.md R20), the reasons a step can stop, and the state
right after reset (10_state.md R29). -/

namespace Sys2Proof.Machine

/-- Why the machine stops. -/
inductive Fault where
  /-- An access to an index that the store does not have. Raised by `State.memRead`, `State.memRead16`,
  `State.memWrite`, `State.readRange` and `State.compactSteps` where MemRead's or MemWrite's requirement fails
  (00_scope.md section 7). 20_memory.md R47 says it never happens, and no state that meets the invariant of 10_state.md
  R21 reaches it. Safe: the model stops where the spec defines nothing. Log entry 7. -/
  | outOfStore (index : Nat)
  deriving DecidableEq, Repr

/-- Why the model gives no meaning. A command the BLOCK refuses is no `Refusal`: its effect is 60_exceptions.md R181. -/
inductive Refusal where
  /-- The instruction's arm of `exec` has no meaning yet. Raised by `exec` alone; no arm raises it. Safe. -/
  | notModelled (mnemonic : String)
  deriving DecidableEq, Repr

/-- One thing the host does at the block's inputs (10_state.md R30). -/
inductive HostEvent where
  /-- The host offers a command word on the command channel. -/
  | command (w : Word)
  /-- The host asserts `rst` (43_system.md R171). `abandoned` is the command in progress at that moment, if any: it is
  abandoned without a response. -/
  | reset (abandoned : Option Word)
  deriving DecidableEq, Repr

/-- The byte store: the indices that POKE, PUT or a compaction has written since reset, with their bytes (10_state.md
R32), indices strictly rising. An index that is not listed has not been written: `Memory.read` says what it reads as. -/
abbrev Memory := List Host.Cell

/-- The state. `mem`, `rd`, `wr` and `fcause` are the whole architectural state (10_state.md R20); the other fields are
the model's own (INVENTORY.md, State). -/
structure State where
  /-- PAYLOAD_SIZE and C, fixed when the block is built (10_state.md R27, R31). Log entry 1. -/
  build : Config.Build
  /-- The byte store (10_state.md R20). -/
  mem : Memory
  /-- The read cursor (10_state.md R20), AW bits in hardware. Log entry 8. -/
  rd : Nat
  /-- The write cursor (10_state.md R20), AW bits in hardware. Log entry 8. -/
  wr : Nat
  /-- The sticky fault code (10_state.md R20, R26). -/
  fcause : BitVec 3
  /-- Which draw of the unspecified store contents is current (10_state.md R29). Log entry 2. -/
  draw : Nat
  /-- What the host offers at the block's inputs, oldest first (10_state.md R30). Log entry 3. -/
  input : List HostEvent
  /-- The response words so far, oldest first (10_state.md R30). Log entry 3. -/
  output : List Word
  deriving DecidableEq, Repr

/-- The reset state of a block built with `b` (10_state.md R29). -/
def State.resetFor (b : Config.Build) : State :=
  { build := b, mem := [], rd := 0, wr := 0, fcause := 0, draw := 0, input := [], output := [] }

/-- The machine right after reset, in the reference configuration (10_state.md R29; the build is log entry 1's choice). -/
def State.reset : State := State.resetFor Config.reference

end Sys2Proof.Machine
end

