-- ==== Sys2Proof/Machine/Flags.lean ====
section
/-! DEFINITION. The fault causes and the one flag of the block, `fcause` (10_state.md R26; 60_exceptions.md R180, R182). -/

namespace Sys2Proof.Machine

/-- The six fault causes of 60_exceptions.md R180. -/
inductive Cause where
  /-- The word is none of the fourteen commands. -/
  | illegalCmd
  /-- SEEK N with `N > lenw`. -/
  | seekOverrun
  /-- PUT with `lenw = 0`. -/
  | putFull
  /-- POKE N, B with `N >= lenw`. -/
  | pokeRange
  /-- CONSUME N with `N > lenr`. -/
  | consumeOverrun
  /-- PEEK N with `N >= lenr`. -/
  | peekRange
  deriving DecidableEq, Repr

/-- The 3-bit code of a cause (60_exceptions.md R180); 0 and 7 are no cause's code. -/
def Cause.code : Cause → BitVec 3
  | .illegalCmd => 1
  | .seekOverrun => 2
  | .putFull => 3
  | .pokeRange => 4
  | .consumeOverrun => 5
  | .peekRange => 6

/-- `fcause` after a refusal with cause `c`: the first cause sticks (60_exceptions.md R182). -/
def latchCause (c : Cause) (f : BitVec 3) : BitVec 3 := if f = 0 then c.code else f

end Sys2Proof.Machine
end

