-- ==== Sys2Proof/Machine/Response.lean ====
section
/-! DEFINITION. The 32-bit response word (30_encoding.md R70): how it is made and how a host reads its fields. -/

namespace Sys2Proof.Machine

/-- The result class RES of SCAN and SYNC (30_encoding.md R70); code 3 is never produced. -/
inductive ResultClass where
  /-- NONE: no marker found (SYNC: NOSYNC); also every command but SCAN and SYNC. -/
  | nothing
  /-- PARTIAL: SYNC only. -/
  | partialFrame
  /-- FOUND of SCAN, FRAME of SYNC. -/
  | found
  deriving DecidableEq, Repr

/-- RES, bits 25:24 (30_encoding.md R70). -/
def ResultClass.code : ResultClass → BitVec 2
  | .nothing => 0
  | .partialFrame => 1
  | .found => 2

/-- The response of a command that is not refused (30_encoding.md R70). -/
def doneWord (res : ResultClass) (seq : BitVec 2) (val : Nat) : Word :=
  0#6 ++ res.code ++ 0#6 ++ seq ++ BitVec.ofNat 16 val

/-- The response of a refused command: REFUSED = 1, CAUSE the code, the rest 0 (30_encoding.md R70). -/
def refusedWord (c : Cause) : Word := 1#1 ++ c.code ++ 0#28

/-- REFUSED, bit 31. -/
def rspRefused (r : Word) : Bool := r.getLsbD 31

/-- CAUSE, bits 30:28. -/
def rspCause (r : Word) : BitVec 3 := r.extractLsb' 28 3

/-- RES, bits 25:24. -/
def rspRes (r : Word) : BitVec 2 := r.extractLsb' 24 2

/-- SEQ, bits 17:16. -/
def rspSeq (r : Word) : BitVec 2 := r.extractLsb' 16 2

/-- VAL, bits 15:0. -/
def rspVal (r : Word) : Half := r.extractLsb' 0 16

/-- The cause of the first refused response of a list, 0 where none is refused (43_system.md R170). -/
def firstRefusalCause : List Word → BitVec 3
  | [] => 0
  | r :: rest => if rspRefused r then rspCause r else firstRefusalCause rest

end Sys2Proof.Machine
end

