-- ==== Sys2Proof/Machine/Ops.lean ====
section
/-! DEFINITION. The named operations over the store, the cursors and the channels: memory primitives (20_memory.md R42),
derived quantities (10_state.md R22), answering, and the one operation that refuses a command (60_exceptions.md R181). -/

namespace Sys2Proof.Machine

/-! ### The store as a list -/

/-- The byte last written to index `i` since reset, if any (10_state.md R32). -/
def Memory.lookup : Memory → Nat → Option Byte
  | [], _ => none
  | (a, v) :: m, i => if a = i then some v else Memory.lookup m i

/-- What index `i` holds: the byte last written, or, where nothing has written it since reset, the free value of the
current draw (10_state.md R29, R32). This is the one definition of what an unlisted index reads as. -/
def Memory.read (draw : Nat) (m : Memory) (i : Nat) : Byte := (Memory.lookup m i).getD (Config.resetByte draw i)

/-- Store `b` at index `i`, keeping the indices strictly rising. -/
def Memory.write : Memory → Nat → Byte → Memory
  | [], i, b => [(i, b)]
  | (a, v) :: m, i, b =>
    if i < a then (i, b) :: (a, v) :: m
    else if i = a then (i, b) :: m
    else (a, v) :: Memory.write m i b

/-- The canonical form: indices strictly rising. An unlisted index reads as no written value, which no entry is. -/
def Memory.wf : Memory → Bool
  | [] => true
  | [_] => true
  | (a, _) :: (c, w) :: m => decide (a < c) && Memory.wf ((c, w) :: m)

/-- One byte of a compaction: `MemWrite(dst, 1, MemRead(src, 1))`. A byte copied onto itself is no change (40_buffer.md
R109, the corner case `rd = 0`). -/
def Memory.copyByte (draw : Nat) (m : Memory) (dst src : Nat) : Memory :=
  if dst = src then m else Memory.write m dst (Memory.read draw m src)

/-- The loop of 40_buffer.md R109: for k = 0, 1, ..., n - 1 in this order, copy index `src + k` to index `k`. -/
def Memory.copyDown (draw : Nat) (m : Memory) (src : Nat) : Nat → Memory
  | 0 => m
  | n + 1 => Memory.copyByte draw (Memory.copyDown draw m src n) n (src + n)

/-- The bytes at indices `a`, ..., `a + n - 1`, lowest index first (00_scope.md section 6, `mem[a..b)`). -/
def Memory.bytesFrom (draw : Nat) (m : Memory) : Nat → Nat → List Byte
  | _, 0 => []
  | a, n + 1 => Memory.read draw m a :: Memory.bytesFrom draw m (a + 1) n

/-! ### Parameters and derived quantities -/

/-- MARKER_SIZE (00_scope.md R5). -/
def markerSize : Nat := 2

/-- FRAME_SIZE = MARKER_SIZE + PAYLOAD_SIZE + 1 (00_scope.md R7). -/
def frameSizeOf (b : Config.Build) : Nat := markerSize + b.payloadSize + 1

/-- A build the spec admits: FRAME_SIZE <= C <= 65535 (00_scope.md R8). -/
abbrev legalBuild (b : Config.Build) : Prop := frameSizeOf b ≤ b.capacity ∧ b.capacity ≤ 65535

/-- AW, the least number of bits that holds C (00_scope.md R9). -/
def cursorWidth (b : Config.Build) : Nat := Nat.log2 b.capacity + 1

/-- FRAME_SIZE of this block. -/
def State.frameSize (s : State) : Nat := frameSizeOf s.build

/-- `lenr = wr - rd`, "bytes-available-to-read" (10_state.md R22). -/
def State.lenr (s : State) : Nat := s.wr - s.rd

/-- `lenw = C - wr`, "bytes-available-to-write" (10_state.md R22). -/
def State.lenw (s : State) : Nat := s.build.capacity - s.wr

/-- The byte at index `i` of the store. -/
def State.readByte (s : State) (i : Nat) : Byte := Memory.read s.draw s.mem i

/-- U, the unread region `mem[rd..wr)` (10_state.md R22). -/
def State.unread (s : State) : List Byte := Memory.bytesFrom s.draw s.mem s.rd s.lenr

/-! ### Updates, one per field -/

/-- Replace the store. -/
def State.setMem (s : State) (m : Memory) : State := { s with mem := m }

/-- Move the read cursor. -/
def State.setRd (s : State) (n : Nat) : State := { s with rd := n }

/-- Move the write cursor. -/
def State.setWr (s : State) (n : Nat) : State := { s with wr := n }

/-- Replace the fault code. -/
def State.setFcause (s : State) (f : BitVec 3) : State := { s with fcause := f }

/-- Replace what the host offers. -/
def State.setInput (s : State) (l : List HostEvent) : State := { s with input := l }

/-- Present one more response word (10_state.md R30: responses come in command order). -/
def State.answer (s : State) (r : Word) : State := { s with output := s.output ++ [r] }

/-- The last response word, as the host sees it; 0 where there is none. -/
def State.lastResponse (s : State) : Word := s.output.getLastD 0

/-! ### Memory primitives (00_scope.md section 7; 20_memory.md R42) -/

/-- `MemRead(a, 1) = mem[a]`; requires `a < C`. -/
def State.memRead (s : State) (a : Nat) : Except Fault Byte :=
  if a < s.build.capacity then .ok (s.readByte a) else .error (.outOfStore a)

/-- Two bytes as a 16-bit number, the one at the lower index less significant (20_memory.md R42, R43). -/
def littleEndian (lo hi : Byte) : Half := hi ++ lo

/-- `MemRead(a, 2) = mem[a] + 256 * mem[a + 1]`; requires `a + 2 <= C`. -/
def State.memRead16 (s : State) (a : Nat) : Except Fault Half :=
  if a + 2 ≤ s.build.capacity then .ok (littleEndian (s.readByte a) (s.readByte (a + 1)))
  else .error (.outOfStore (max a s.build.capacity))

/-- `MemWrite(a, 1, v)`; requires `a < C`. -/
def State.memWrite (s : State) (a : Nat) (v : Byte) : Except Fault State :=
  if a < s.build.capacity then .ok (s.setMem (Memory.write s.mem a v)) else .error (.outOfStore a)

/-- The bytes of `mem[a..a+n)`; every index read must be in the store. -/
def State.readRange (s : State) (a n : Nat) : Except Fault (List Byte) :=
  if n = 0 ∨ a + n ≤ s.build.capacity then .ok (Memory.bytesFrom s.draw s.mem a n)
  else .error (.outOfStore (max a s.build.capacity))

/-- COMPACT-steps (40_buffer.md R109; 42_sync.md R150): the pseudocode of COMPACT without its `respond()`. -/
def State.compactSteps (s : State) : Except Fault State :=
  if s.lenr = 0 ∨ s.rd + s.lenr ≤ s.build.capacity then
    .ok (((s.setMem (Memory.copyDown s.draw s.mem s.rd s.lenr)).setWr s.lenr).setRd 0)
  else .error (.outOfStore (max s.rd s.build.capacity))

/-! ### Ending a command -/

/-- What a step of this machine gives. -/
abbrev Result := Host.Outcome State Fault Refusal

/-- Go on with what a memory primitive gave, or stop with its fault. -/
def onOk {α : Type} (r : Except Fault α) (k : α → Result) : Result :=
  match r with
  | .ok a => k a
  | .error f => .fault f

/-- Go on from the next state, or stop as the first part did. -/
def andThen (r : Result) (k : State → Result) : Result :=
  match r with
  | .next s => k s
  | .fault f => .fault f
  | .refused q => .refused q

/-- `respond(RES, SEQ, VAL)` (00_scope.md section 7; 30_encoding.md R70). -/
def respond (res : ResultClass) (seq : BitVec 2) (val : Nat) (s : State) : Result := .next (s.answer (doneWord res seq val))

/-- `respond(VAL = val)`. -/
def respondVal (val : Nat) (s : State) : Result := respond .nothing 0 val s

/-- `respond()`. -/
def respondDone (s : State) : Result := respondVal 0 s

/-- The state after `raise Fault(c)`: everything kept, the first cause latched, the refusal answered (60_exceptions.md
R181, R182). -/
def State.afterFault (c : Cause) (s : State) : State := (s.setFcause (latchCause c s.fcause)).answer (refusedWord c)

/-- `raise Fault(c)`: TAKING AN EXCEPTION on this block (60_exceptions.md R181, R182, R185). There is no handler and no
return from it (R185, R186): the next command runs as usual. -/
def raiseFault (c : Cause) (s : State) : Result := .next (s.afterFault c)

/-- The state after `rst` is asserted, with `rest` still to come from the host (10_state.md R29, R30; 43_system.md R171):
cursors and fault code 0, the store unspecified again (a fresh draw), the build and the responses already given kept. -/
def State.afterReset (s : State) (rest : List HostEvent) : State :=
  { build := s.build, mem := [], rd := 0, wr := 0, fcause := 0, draw := s.draw + 1, input := rest, output := s.output }

end Sys2Proof.Machine
end

