-- ==== Sys2Proof/Machine/Operands.lean ====
section
/-! DEFINITION. The operand forms of the block: an offset from the read cursor, an offset from the write cursor, a count
against either length (20_memory.md R41; 30_encoding.md R68). Every comparison is on unbounded unsigned integers. -/

namespace Sys2Proof.Machine

/-- The index a PEEK at offset N reads, `rd + N` (20_memory.md R41). -/
def State.peekIndex (s : State) (n : Nat) : Nat := s.rd + n

/-- The index a POKE at offset N writes, `wr + N` (20_memory.md R41). -/
def State.pokeIndex (s : State) (n : Nat) : Nat := s.wr + n

/-- `N < lenr`: the offset names an unread byte (40_buffer.md R104). -/
abbrev State.peekInRange (s : State) (n : Nat) : Prop := n < s.lenr

/-- `N < lenw`: the offset names a free byte (40_buffer.md R105). -/
abbrev State.pokeInRange (s : State) (n : Nat) : Prop := n < s.lenw

/-- `N <= lenw`: the write cursor may advance by N (40_buffer.md R106). -/
abbrev State.seekInRange (s : State) (n : Nat) : Prop := n ≤ s.lenw

/-- `N <= lenr`: the read cursor may advance by N (40_buffer.md R108). -/
abbrev State.consumeInRange (s : State) (n : Nat) : Prop := n ≤ s.lenr

end Sys2Proof.Machine
end

