-- ==== Sys2Proof/Machine/Buffer.lean ====
section
/-! DEFINITION. Unit BUF: the eleven buffer commands (40_buffer.md R100 to R110). -/

namespace Sys2Proof.Machine

/-- LENR (40_buffer.md R100). -/
def execLenr (s : State) : Result := respondVal s.lenr s

/-- LENW (40_buffer.md R101). -/
def execLenw (s : State) : Result := respondVal s.lenw s

/-- RDPTR (40_buffer.md R102). -/
def execRdptr (s : State) : Result := respondVal s.rd s

/-- WRPTR (40_buffer.md R103). -/
def execWrptr (s : State) : Result := respondVal s.wr s

/-- PEEK N (40_buffer.md R104). -/
def execPeek (n : Nat) (s : State) : Result :=
  if s.peekInRange n then onOk (s.memRead (s.peekIndex n)) fun b => respondVal b.toNat s
  else raiseFault .peekRange s

/-- POKE N, B (40_buffer.md R105). -/
def execPoke (n : Nat) (b : Byte) (s : State) : Result :=
  if s.pokeInRange n then onOk (s.memWrite (s.pokeIndex n) b) respondDone
  else raiseFault .pokeRange s

/-- SEEK N (40_buffer.md R106). -/
def execSeek (n : Nat) (s : State) : Result :=
  if s.seekInRange n then respondDone (s.setWr (s.wr + n))
  else raiseFault .seekOverrun s

/-- PUT B (40_buffer.md R107). -/
def execPut (b : Byte) (s : State) : Result :=
  if s.lenw = 0 then raiseFault .putFull s
  else onOk (s.memWrite (s.pokeIndex 0) b) fun t => respondDone (t.setWr (s.wr + 1))

/-- CONSUME N (40_buffer.md R108). -/
def execConsume (n : Nat) (s : State) : Result :=
  if s.consumeInRange n then respondDone (s.setRd (s.rd + n))
  else raiseFault .consumeOverrun s

/-- COMPACT (40_buffer.md R109). -/
def execCompact (s : State) : Result := onOk s.compactSteps respondDone

/-- REWIND (40_buffer.md R110). -/
def execRewind (s : State) : Result := respondDone ((s.setRd 0).setWr 0)

end Sys2Proof.Machine
end

