-- ==== Sys2Proof/Machine/Marker.lean ====
section
/-! DEFINITION. The 16-bit frame marker and the raw frame (30_encoding.md part A, R60 to R66). -/

namespace Sys2Proof.Machine

/-- SYNC_PATTERN (00_scope.md R10). Log entry 11. -/
def syncPattern : BitVec 12 := 0x801

/-- IsMarker(m): the sync field matches and each 2-bit field agrees with itself (30_encoding.md R61). Field B is not
compared with field A (90_conflicts.md C1). -/
def isMarker (m : Half) : Bool :=
  m.extractLsb' 0 12 == syncPattern && m.getLsbD 12 == m.getLsbD 13 && m.getLsbD 14 == m.getLsbD 15

/-- SeqOf(m) = {m[14], m[12]} (30_encoding.md R62); defined by the spec where `isMarker` holds, and used only there. -/
def seqOf (m : Half) : BitVec 2 := m.extractLsb' 14 1 ++ m.extractLsb' 12 1

/-- MarkerOf(s) = 0x0801 + 0x3000 * s[0] + 0xC000 * s[1] (30_encoding.md R63). -/
def markerOf (s : BitVec 2) : Half :=
  0x0801#16 + (if s.getLsbD 0 then 0x3000#16 else 0) + (if s.getLsbD 1 then 0xC000#16 else 0)

/-- The first byte of a marker in the stream, `m[7:0]` (30_encoding.md R64). -/
def markerFirst (m : Half) : Byte := m.extractLsb' 0 8

/-- The second byte of a marker in the stream, `m[15:8]` (30_encoding.md R64). -/
def markerSecond (m : Half) : Byte := m.extractLsb' 8 8

/-- The bytes of a raw frame: marker, payload, one padding byte (30_encoding.md R65). -/
def rawFrame (seq : BitVec 2) (payload : List Byte) (padding : Byte) : List Byte :=
  markerFirst (markerOf seq) :: markerSecond (markerOf seq) :: (payload ++ [padding])

end Sys2Proof.Machine
end

