-- ==== Sys2Proof/Machine/Scanner.lean ====
section
/-! DEFINITION. Unit SCN: the scan function and the SCAN command (41_scanner.md R130 to R137). -/

namespace Sys2Proof.Machine

/-- What a scan returns: found, rem, seq (41_scanner.md R130). -/
structure ScanResult where
  /-- A marker was found. -/
  found : Bool
  /-- The remaining length, from the position where the scan stopped to the window's end. -/
  rem : Nat
  /-- The sequence value of the marker found, 0 with none. -/
  seq : BitVec 2
  deriving DecidableEq, Repr

/-- Scan(w) (41_scanner.md R130): positions in ascending order, stopping at the first marker or when fewer than two bytes
remain; what is left of the window is the argument of the recursion. -/
def scan : List Byte → ScanResult
  | [] => ⟨false, 0, 0⟩
  | [_] => ⟨false, 1, 0⟩
  | a :: b :: rest =>
    if isMarker (littleEndian a b) then ⟨true, rest.length + 2, seqOf (littleEndian a b)⟩
    else scan (b :: rest)

/-- The candidate at position `i` of a window, `w[i] + 256 * w[i + 1]`; none where fewer than two bytes remain. -/
def candidate (w : List Byte) (i : Nat) : Option Half :=
  match w[i]?, w[i + 1]? with
  | some a, some b => some (littleEndian a b)
  | _, _ => none

/-- A valid marker begins at position `i` of the window. -/
def markerAt (w : List Byte) (i : Nat) : Bool := (candidate w i).any isMarker

/-- The loop of 41_scanner.md R130 with its index `i`, `fuel` iterations at most: the spec's pseudocode, held beside
`scan`. -/
def scanLoop (w : List Byte) : Nat → Nat → ScanResult
  | 0, i => ⟨false, w.length - i, 0⟩
  | fuel + 1, i =>
    match candidate w i with
    | none => ⟨false, w.length - i, 0⟩
    | some m => if isMarker m then ⟨true, w.length - i, seqOf m⟩ else scanLoop w fuel (i + 1)

/-- RES of a SCAN (41_scanner.md R134). -/
def scanClass (r : ScanResult) : ResultClass := if r.found then .found else .nothing

/-- SCAN (41_scanner.md R134): scan the unread region, report, change no state. -/
def execScan (s : State) : Result :=
  onOk (s.readRange s.rd s.lenr) fun w => respond (scanClass (scan w)) (scan w).seq (scan w).rem s

end Sys2Proof.Machine
end

