-- ==== Sys2Proof/Machine/Sync.lean ====
section
/-! DEFINITION. The SYNC command: steps 1, 2 and 3 of the decode algorithm (42_sync.md R150). -/

namespace Sys2Proof.Machine

/-- RES of a SYNC (42_sync.md R150): NOSYNC with no marker, PARTIAL with less than a frame from the marker on, else FRAME. -/
def syncClass (r : ScanResult) (frameSize : Nat) : ResultClass :=
  if r.found = false then .nothing
  else if r.rem < frameSize then .partialFrame
  else .found

/-- What SYNC does after the scan answered `r` (42_sync.md R150): drop the bytes the scan disposed of, then compact on
the two stopping outcomes and not on FRAME. -/
def syncAfterScan (r : ScanResult) (s : State) : Result :=
  match syncClass r s.frameSize with
  | .nothing => onOk (s.setRd (s.rd + (s.lenr - r.rem))).compactSteps (respond .nothing 0 r.rem)
  | .partialFrame => onOk (s.setRd (s.rd + (s.lenr - r.rem))).compactSteps (respond .partialFrame r.seq r.rem)
  | .found => respond .found r.seq r.rem (s.setRd (s.rd + (s.lenr - r.rem)))

/-- SYNC (42_sync.md R150). -/
def execSync (s : State) : Result := onOk (s.readRange s.rd s.lenr) fun w => syncAfterScan (scan w) s

end Sys2Proof.Machine
end

