-- ==== Sys2Proof/Machine/System.lean ====
section
/-! DEFINITION. The system command STAT (43_system.md R170). Reset is no command: `State.afterReset` and the step. -/

namespace Sys2Proof.Machine

/-- STAT (43_system.md R170). -/
def execStat (s : State) : Result := respondVal s.fcause.toNat s

end Sys2Proof.Machine
end

