-- ==== Sys2Proof/Machine/Dispatch.lean ====
section
/-! DEFINITION. One arm per command: the meaning of each (30_encoding.md R69). -/

namespace Sys2Proof.Machine

def exec (i : Instr) (s : State) : Host.Outcome State Fault Refusal :=
  match i with
  | .lenr => Sys2Proof.Machine.execLenr s
  | .lenw => Sys2Proof.Machine.execLenw s
  | .rdptr => Sys2Proof.Machine.execRdptr s
  | .wrptr => Sys2Proof.Machine.execWrptr s
  | .peek n => Sys2Proof.Machine.execPeek n s
  | .poke n b => Sys2Proof.Machine.execPoke n b s
  | .seek n => Sys2Proof.Machine.execSeek n s
  | .put b => Sys2Proof.Machine.execPut b s
  | .consume n => Sys2Proof.Machine.execConsume n s
  | .compact => Sys2Proof.Machine.execCompact s
  | .rewind => Sys2Proof.Machine.execRewind s
  | .scan => Sys2Proof.Machine.execScan s
  | .sync => Sys2Proof.Machine.execSync s
  | .stat => Sys2Proof.Machine.execStat s

end Sys2Proof.Machine
end

