-- ==== Sys2Proof/Machine/Channel.lean ====
section
/-! DEFINITION. What the block does with one thing the host offers (10_state.md R30; 60_exceptions.md R183). -/

namespace Sys2Proof.Machine

/-- Perform a command word: decode first, then the command; an illegal word is refused with ILLEGAL_CMD (60_exceptions.md
R183; 30_encoding.md R71, R72). -/
def perform (w : Word) (s : State) : Result :=
  match decode w with
  | .ok i => exec i s
  | .error _ => raiseFault .illegalCmd s

/-- Take the event `e` from the inputs, `rest` still to come (10_state.md R30; 43_system.md R171). -/
def takeEvent (e : HostEvent) (rest : List HostEvent) (s : State) : Result :=
  match e with
  | .command w => perform w (s.setInput rest)
  | .reset _ => .next (s.afterReset rest)

/-- The host's next event is the command word `w`; what it offered before comes after. -/
def State.offer (s : State) (w : Word) : State := s.setInput (.command w :: s.input)

end Sys2Proof.Machine
end

