-- ==== Sys2Proof/Machine/Step.lean ====
section
/-! DEFINITION. One step of the block: one command, performed whole (00_scope.md R12; 20_memory.md R48). -/

namespace Sys2Proof.Machine

/-- One step. With nothing offered the block waits (70_reset_and_hazards.md R200; log entry 4). -/
def step (s : State) : Host.Outcome State Fault Refusal :=
  match s.input with
  | [] => .next s
  | e :: rest => Sys2Proof.Machine.takeEvent e rest s

/-- `s` with the table word `w` of `nbits` bits offered next on the command channel (log entry 10). -/
def State.withFetchWord (s : State) (nbits w : Nat) : State := s.offer (BitVec.ofNat 32 (w % 2 ^ nbits))

end Sys2Proof.Machine
end

