-- ==== Sys2Proof/Machine/Protocol.lean ====
section
/-! DEFINITION. The host's side as the spec writes it: the pseudo-commands (30_encoding.md R75) and the decode pass
(42_sync.md R151). The host is outside the block; these say which commands it issues. -/

namespace Sys2Proof.Machine

/-- Issue commands one after another (20_memory.md R48: a run is the fold of the step over the command list). -/
def execAll : List Instr → State → Result
  | [], s => .next s
  | i :: rest, s => andThen (exec i s) (execAll rest)

/-- `APPEND b0 b1 ...` (30_encoding.md R75). -/
def appendCommands (bs : List Byte) : List Instr := bs.map .put

/-- The POKEs of an APPENDRAW, from offset `k` on. -/
def pokesFrom : Nat → List Byte → List Instr
  | _, [] => []
  | k, b :: bs => .poke k b :: pokesFrom (k + 1) bs

/-- `APPENDRAW b0 b1 ... bk-1` (30_encoding.md R75). -/
def appendRawCommands (bs : List Byte) : List Instr := pokesFrom 0 bs ++ [.seek bs.length]

/-- Drain j bytes: PEEK 0 .. PEEK (j - 1), then CONSUME j (40_buffer.md R111). -/
def drainCommands (j : Nat) : List Instr := (List.range j).map .peek ++ [.consume j]

/-- `TAKE` (30_encoding.md R75). -/
def takeCommands (b : Config.Build) : List Instr := [.consume (frameSizeOf b)]

/-- `INIT` (30_encoding.md R75). -/
def initCommands : List Instr := [.rewind]

/-- Read the payload of the frame SYNC reported: PEEK 2 .. PEEK (FRAME_SIZE - 2) (42_sync.md R151). -/
def payloadPeeks (b : Config.Build) : List Instr := (List.range b.payloadSize).map fun k => .peek (markerSize + k)

/-- Step 4 and step 5 of the pass: read the payload, hand it to the codec (which changes nothing here), take the frame. -/
def frameCommands (b : Config.Build) : List Instr := payloadPeeks b ++ takeCommands b

/-- The SYNC just issued answered FRAME. -/
def answeredFrame (s : State) : Bool := rspRes s.lastResponse == ResultClass.found.code

/-- One decode pass (42_sync.md R151). The list says, FRAME by FRAME, whether the sink can take one decoded block
(93_implementation_defined.md U13); past its end the sink takes nothing. Log entry 16. -/
def decodePass : List Bool → State → Result
  | [], s => andThen (exec .sync s) fun t => if answeredFrame t then exec .compact t else .next t
  | ready :: later, s =>
    andThen (exec .sync s) fun t =>
      if answeredFrame t then
        if ready then andThen (execAll (frameCommands t.build) t) (decodePass later) else exec .compact t
      else .next t

/-- A raw frame as a host thinks of it: sequence value, payload, padding byte. -/
structure Frame where
  seq : BitVec 2
  payload : List Byte
  padding : Byte
  deriving DecidableEq, Repr

/-- The bytes of a frame in the stream (30_encoding.md R65). -/
def frameBytes (f : Frame) : List Byte := rawFrame f.seq f.payload f.padding

/-- The responses of a pass over whole frames back to back with a sink that takes each: for each frame FRAME with its
sequence value and the bytes left, its payload bytes, and the answer to CONSUME; then NOSYNC with nothing left (the
decode half of S6 and P5, 95_test_vectors.md). -/
def streamResponses (frameSize : Nat) : List Frame → List Word
  | [] => [doneWord .nothing 0 0]
  | f :: rest =>
    doneWord .found f.seq ((rest.length + 1) * frameSize) ::
      (f.payload.map (fun b => doneWord .nothing 0 b.toNat) ++ doneWord .nothing 0 0 :: streamResponses frameSize rest)

end Sys2Proof.Machine
end

