-- ==== Sys2Proof/Safety.lean ====
section
/-! DEFINITION. The terms claims use: the invariant of 10_state.md R21, what a run that went right is (60_exceptions.md
R181), and what it is to leave state alone. -/

namespace Sys2Proof.Machine

/-- The state invariant: 0 <= rd <= wr <= C (10_state.md R21), in a build the spec admits (00_scope.md R8), with `fcause`
never 7 (10_state.md R20) and the store in canonical form, inside indices 0..C-1 (20_memory.md R47). -/
structure State.Inv (s : State) : Prop where
  legal : legalBuild s.build
  rd_le_wr : s.rd ≤ s.wr
  wr_le_capacity : s.wr ≤ s.build.capacity
  fcause_ne_seven : s.fcause ≠ 7
  mem_wf : Memory.wf s.mem = true
  mem_inside : ∀ c ∈ s.mem, c.1 < s.build.capacity

/-- No command has been refused since reset: the host has kept the buffer's contract so far (60_exceptions.md R181:
"a state with `fcause != 0` is never a good final state"). -/
def State.contractKept (s : State) : Prop := s.fcause = 0

/-- Every index of the store reads in `t` as in `s`. -/
def SameBytes (s t : State) : Prop := ∀ i, t.readByte i = s.readByte i

/-- The build, the draw of the unspecified contents and the inputs are as before: no command touches them. -/
def SameSurround (s t : State) : Prop := t.build = s.build ∧ t.draw = s.draw ∧ t.input = s.input

/-- Both cursors are as before. -/
def SameCursors (s t : State) : Prop := t.rd = s.rd ∧ t.wr = s.wr

/-- `t` is `s` with the one response `r` more and nothing else different, every byte of the store included. -/
def OnlyAnswered (s t : State) (r : Word) : Prop :=
  t.output = s.output ++ [r] ∧ t.mem = s.mem ∧ SameBytes s t ∧ SameCursors s t ∧ t.fcause = s.fcause ∧ SameSurround s t

/-- `t` is `s` after a refusal with cause `c` (60_exceptions.md R181, R182): the store and the cursors kept, the first
cause latched, the refusal answered. -/
def Refused (c : Cause) (s t : State) : Prop :=
  t.output = s.output ++ [refusedWord c] ∧ t.mem = s.mem ∧ SameBytes s t ∧ SameCursors s t ∧
    t.fcause = (if s.fcause = 0 then c.code else s.fcause) ∧ SameSurround s t

/-- The four architectural variables agree, the store byte by byte (10_state.md R20). -/
def SameBlock (s t : State) : Prop := SameBytes s t ∧ SameCursors s t ∧ t.fcause = s.fcause

/-- The responses are `before` and then some, and `fcause` is the cause of the first refusal among the later ones, 0 where
there is none; each refusal among them has a cause (10_state.md R26; 60_exceptions.md R180, R182). With `before` the
responses given up to the last assertion of `rst`, this is the meaning of `fcause`. -/
def State.FaultLoggedSince (before : List Word) (s : State) : Prop :=
  ∃ since, s.output = before ++ since ∧ s.fcause = firstRefusalCause since ∧
    ∀ r ∈ since, rspRefused r = true → rspCause r ≠ 0

/-- The host's next event is not an assertion of `rst`. -/
def NoResetNext (s : State) : Prop := ∀ a, s.input.head? ≠ some (.reset a)

/-- The host offers commands only. -/
def OnlyCommands (s : State) : Prop := ∀ e ∈ s.input, ∃ w, e = .command w

/-- The states agree on all the host can see through the unread region: cursors, fault code, build and unread bytes
(10_state.md R28: bytes outside the unread region are hidden). -/
def SameView (s t : State) : Prop :=
  t.build = s.build ∧ t.rd = s.rd ∧ t.wr = s.wr ∧ t.fcause = s.fcause ∧ t.unread = s.unread

end Sys2Proof.Machine
end

