-- ==== Sys2Proof/Certificates/Slice0/Obligations.lean ====
section
/-! DEFINITION. The statements for the provers, each from a numbered rule of spec/ or from the sections it rests on. -/

open Sys2Proof Sys2Proof.Machine

/-! ### Reset, the invariant, the step -/

/-- 10_state.md R29: after reset `rd = 0`, `wr = 0`, `fcause = 0`, so `lenr = 0` and `lenw = C`, in every build; and every
byte of the store is the free value, of which nothing is known (the free value as the form of "unspecified" is the model's,
log entry 2). -/
def Obligations.ResetLeavesEmptyBuffer : Prop :=
  ∀ b : Config.Build, (State.resetFor b).rd = 0 ∧ (State.resetFor b).wr = 0 ∧ (State.resetFor b).fcause = 0 ∧
    (State.resetFor b).lenr = 0 ∧ (State.resetFor b).lenw = b.capacity ∧
    ∀ i, (State.resetFor b).readByte i = Config.resetByte (State.resetFor b).draw i

/-- The reset state of every build the spec admits meets the invariant (10_state.md R21, R29), and so does the reset state
of the reference build (that build is the model's choice, log entry 1); and in every build `fcause` is then the cause of
the first refusal so far, of which there is none (10_state.md R26). -/
def Obligations.ResetMeetsInvariant : Prop :=
  (∀ b : Config.Build, legalBuild b → (State.resetFor b).Inv) ∧ State.reset.Inv ∧
  ∀ b : Config.Build, (State.resetFor b).FaultLoggedSince []

/-- 10_state.md R21: 0 <= rd <= wr <= C holds after reset and every step preserves it. -/
def Obligations.CursorsStayOrderedInTheStore : Prop :=
  (∀ b : Config.Build, (State.resetFor b).rd ≤ (State.resetFor b).wr ∧ (State.resetFor b).wr ≤ b.capacity) ∧
  ∀ s t : State, s.rd ≤ s.wr → s.wr ≤ s.build.capacity → step s = .next t → t.rd ≤ t.wr ∧ t.wr ≤ t.build.capacity

/-- Every step keeps the whole invariant: the cursors (10_state.md R21), the legal build (00_scope.md R8), `fcause` never 7
(10_state.md R20), the store in canonical form and inside its indices (20_memory.md R47). -/
def Obligations.StepKeepsInvariant : Prop := ∀ s t : State, s.Inv → step s = .next t → t.Inv

/-- 43_system.md R171 with 10_state.md R29, R30: asserting `rst` always gives the reset values, answers nothing (a command
in progress is abandoned without a response), keeps the build and the later inputs, and makes every byte of the store
unspecified again (a fresh draw: that form is the model's, log entry 2). -/
def Obligations.RstInputGivesResetState : Prop :=
  ∀ (s : State) (abandoned : Option Word) (rest : List HostEvent), s.input = .reset abandoned :: rest →
    ∃ t, step s = .next t ∧ t.rd = 0 ∧ t.wr = 0 ∧ t.fcause = 0 ∧ t.output = s.output ∧ t.input = rest ∧ t.build = s.build ∧
      t.draw ≠ s.draw ∧ ∀ i, t.readByte i = Config.resetByte t.draw i

/-- A step runs the decoded command: the word leaves the input and the command's meaning does the rest (00_scope.md R12;
10_state.md R30). -/
def Obligations.StepRunsDecodedCommand : Prop :=
  ∀ (s : State) (w : Word) (rest : List HostEvent) (i : Instr), s.input = .command w :: rest → decode w = .ok i →
    step s = exec i (s.setInput rest)

/-- 60_exceptions.md R180, R183 with 30_encoding.md R71, R72: a word that is no command is refused with ILLEGAL_CMD. -/
def Obligations.StepRefusesIllegalWord : Prop :=
  ∀ (s : State) (w : Word) (rest : List HostEvent) (e : DecodeError), s.input = .command w :: rest → decode w = .error e →
    ∃ t, step s = .next t ∧ Refused .illegalCmd (s.setInput rest) t

/-- 70_reset_and_hazards.md R200: with nothing offered the block waits, and nothing changes (the stutter is the model's
choice, log entry 4). -/
def Obligations.StepWithNothingOfferedWaits : Prop := ∀ s : State, s.input = [] → step s = .next s

/-- 10_state.md R30: each accepted command word produces exactly one response word, after the earlier ones. -/
def Obligations.EveryCommandIsAnsweredOnce : Prop :=
  ∀ (s : State) (w : Word) (rest : List HostEvent), s.Inv → s.input = .command w :: rest →
    ∃ t r, step s = .next t ∧ t.output = s.output ++ [r] ∧ t.input = rest

/-- 20_memory.md R47, R48 and 60_exceptions.md R186: from a state that meets the invariant a step always answers a next
state; it never reaches outside the store and never stops taking commands. -/
def Obligations.NoStepFaults : Prop := ∀ s : State, s.Inv → ∃ t, step s = .next t

/-- 20_memory.md R48 and 10_state.md R30: a run performs the host's whole command list, one response each, in order, and
ends in a state that meets the invariant. -/
def Obligations.RunPerformsWholeCommandList : Prop :=
  ∀ s : State, s.Inv → OnlyCommands s →
    ∃ t : State, Sys2Proof.core.run s.input.length s = .next t ∧ t.Inv ∧ t.input = [] ∧
      s.output <+: t.output ∧ t.output.length = s.output.length + s.input.length

/-! ### Refusal and the sticky fault code -/

/-- 60_exceptions.md R181: whatever command answers REFUSED, the store and the cursors are as before, the cause in the
response is the command's own, and `fcause` latches it; the same for a word that is no command. -/
def Obligations.RefusedCommandChangesNothingElse : Prop :=
  (∀ (i : Instr) (s t : State), exec i s = .next t → rspRefused t.lastResponse = true → ∃ c, Refused c s t) ∧
  ∀ (w : Word) (s t : State), perform w s = .next t → rspRefused t.lastResponse = true → ∃ c, Refused c s t

/-- 60_exceptions.md R182: `fcause` keeps the first cause; a refusal sets it when it is 0 and leaves it otherwise, and the
response carries the refusal's own cause; no command clears it; asserting `rst` does. -/
def Obligations.FirstCauseSticksUntilReset : Prop :=
  (∀ (c : Cause) (s : State), ∃ t, raiseFault c s = .next t ∧ Refused c s t ∧ rspCause t.lastResponse = c.code) ∧
  (∀ (w : Word) (s t : State), perform w s = .next t → rspRefused t.lastResponse = true →
    t.fcause = (if s.fcause = 0 then rspCause t.lastResponse else s.fcause) ∧ ∃ c : Cause, rspCause t.lastResponse = c.code) ∧
  (∀ s t : State, NoResetNext s → s.fcause ≠ 0 → step s = .next t → t.fcause = s.fcause) ∧
  ∀ (s t : State) (abandoned : Option Word) (rest : List HostEvent), s.input = .reset abandoned :: rest →
    step s = .next t → t.fcause = 0

/-- 43_system.md R170: after any run of commands from a state with no fault (right after reset, be it the first or a later
one), STAT answers 0 if no command of the run was refused and else the cause of the first one refused, and changes nothing. -/
def Obligations.StatAnswersFirstRefusalOfTheRun : Prop :=
  ∀ (k : Nat) (s t : State), s.fcause = 0 → OnlyCommands s → Sys2Proof.core.run k s = .next t →
    ∃ since, t.output = s.output ++ since ∧ t.fcause = firstRefusalCause since ∧
      ∃ u, exec .stat t = .next u ∧ OnlyAnswered t u (doneWord .nothing 0 (firstRefusalCause since).toNat)

/-- 10_state.md R26 with 60_exceptions.md R182: `fcause` is always the cause of the first refusal since the last assertion
of `rst`. Every step but an assertion of `rst` keeps that, whatever the responses before it were; an assertion of `rst`
makes it so with no response since. -/
def Obligations.FaultCodeIsFirstRefusalSinceReset : Prop :=
  (∀ (before : List Word) (s t : State), s.FaultLoggedSince before → NoResetNext s → step s = .next t →
    t.FaultLoggedSince before) ∧
  ∀ (s t : State) (abandoned : Option Word) (rest : List HostEvent), s.input = .reset abandoned :: rest →
    step s = .next t → t.output = s.output ∧ t.FaultLoggedSince s.output

/-! ### Encodings -/

/-- Decode and encode agree on every command with an encoding, every operand at every value (30_encoding.md R67 to R69). -/
def Obligations.DecodeOfEncodeIsIdentity : Prop := ∀ i : Instr, i.WellFormed → decode (encode i) = .ok i

/-- A word that decodes is the one encoding of its command: no bit of it is dropped (30_encoding.md R67, R72). -/
def Obligations.EncodeOfDecodeIsIdentity : Prop :=
  ∀ (w : Word) (i : Instr), decode w = .ok i → i.WellFormed ∧ encode i = w

/-- 30_encoding.md R69: a word selects a command when `cmd & mask = match`, for the fourteen printed rows; they are all
the commands there are. -/
def Obligations.WordSelectsCommandByMaskAndMatch : Prop :=
  (∀ row ∈ opcodeMap, ∀ w : Word, w &&& row.2.1 = row.1 → decode w = .ok (row.2.2 (byteField w) (countField w).toNat)) ∧
  ∀ (w : Word) (i : Instr), decode w = .ok i →
    ∃ row ∈ opcodeMap, w &&& row.2.1 = row.1 ∧ i = row.2.2 (byteField w) (countField w).toNat

/-- 30_encoding.md R71: every OP value outside the table is reserved, and a word with it is refused with ILLEGAL_CMD and
changes nothing else; the all-zero word is one. -/
def Obligations.ReservedOpcodeIsIllegal : Prop :=
  (∀ (w : Word) (s : State), reservedOp (opField w) = true →
    decode w = .error .reservedOp ∧ ∃ t, perform w s = .next t ∧ Refused .illegalCmd s t) ∧
  (∀ op : BitVec 8, reservedOp op = true ↔ ∀ row ∈ opcodeMap, opField row.1 ≠ op) ∧
  reservedOp (opField 0x00000000#32) = true

/-- 30_encoding.md R72: a word whose OP is in the table but which fails its row's mask is refused with ILLEGAL_CMD; no
word is selected by two rows, so every word is exactly one command or illegal. -/
def Obligations.UnusedFieldMustBeZero : Prop :=
  (∀ row ∈ opcodeMap, ∀ (w : Word) (s : State), opField w = opField row.1 → w &&& row.2.1 ≠ row.1 →
    decode w = .error .unusedFieldNonzero ∧ ∃ t, perform w s = .next t ∧ Refused .illegalCmd s t) ∧
  ∀ row ∈ opcodeMap, ∀ row' ∈ opcodeMap, ∀ w : Word, w &&& row.2.1 = row.1 → w &&& row'.2.1 = row'.1 → row.1 = row'.1

/-- Words written out from 30_encoding.md R69 and 95_test_vectors.md decode to the commands they stand for. -/
def Obligations.WrittenWordsDecode : Prop :=
  decode 0x01000000#32 = .ok .lenr ∧ decode 0x05000001#32 = .ok (.peek 1) ∧ decode 0x06C80001#32 = .ok (.poke 1 0xC8) ∧
  decode 0x0700000E#32 = .ok (.seek 14) ∧ decode 0x08AA0000#32 = .ok (.put 0xAA) ∧ decode 0x09000006#32 = .ok (.consume 6) ∧
  decode 0x10000000#32 = .ok .scan ∧ decode 0x11000000#32 = .ok .sync ∧ decode 0x1F000000#32 = .ok .stat

/-- 30_encoding.md R70: where the fields of a response word lie, for any result class, sequence value and value that fits,
and the refusal words `0x80000000 + 0x10000000 * cause`. -/
def Obligations.ResponseWordFieldsReadBack : Prop :=
  (∀ (res : ResultClass) (seq : BitVec 2) (val : Nat), val < 65536 →
    rspRefused (doneWord res seq val) = false ∧ rspCause (doneWord res seq val) = 0 ∧
    rspRes (doneWord res seq val) = res.code ∧ rspSeq (doneWord res seq val) = seq ∧
    (rspVal (doneWord res seq val)).toNat = val ∧
    (doneWord res seq val).extractLsb' 26 2 = 0 ∧ (doneWord res seq val).extractLsb' 18 6 = 0) ∧
  ∀ c : Cause, (refusedWord c).toNat = 0x80000000 + 0x10000000 * c.code.toNat

/-! ### The marker -/

/-- 30_encoding.md R61: the validity predicate field by field, and the four values that satisfy it. -/
def Obligations.MarkersAreExactlyFourValues : Prop :=
  ∀ m : Half,
    (isMarker m = true ↔ m.extractLsb' 0 12 = 0x801#12 ∧ m.getLsbD 12 = m.getLsbD 13 ∧ m.getLsbD 14 = m.getLsbD 15) ∧
    (isMarker m = true ↔ m = 0x0801#16 ∨ m = 0x3801#16 ∨ m = 0xC801#16 ∨ m = 0xF801#16)

/-- 30_encoding.md R62, R63: the marker of each sequence value with its two stream bytes; SeqOf and MarkerOf are inverse
of one another on valid markers. -/
def Obligations.MarkerOfAndSeqOfAreInverse : Prop :=
  (markerOf 0 = 0x0801#16 ∧ markerOf 1 = 0x3801#16 ∧ markerOf 2 = 0xC801#16 ∧ markerOf 3 = 0xF801#16) ∧
  (∀ q : BitVec 2, isMarker (markerOf q) = true ∧ seqOf (markerOf q) = q ∧
    littleEndian (markerFirst (markerOf q)) (markerSecond (markerOf q)) = markerOf q ∧ markerFirst (markerOf q) = 0x01#8) ∧
  ∀ m : Half, isMarker m = true →
    markerOf (seqOf m) = m ∧ (seqOf m).getLsbD 0 = m.getLsbD 12 ∧ (seqOf m).getLsbD 1 = m.getLsbD 14

/-! ### The scan function -/

/-- 41_scanner.md R130: the scan is the index loop the spec writes, started at position 0. -/
def Obligations.ScanIsTheIndexLoop : Prop := ∀ w : List Byte, scan w = scanLoop w w.length 0

/-- 41_scanner.md R131: a match is the earliest valid marker of the window, with its remaining length and sequence value. -/
def Obligations.ScanFindsTheEarliestMarker : Prop :=
  ∀ w : List Byte, (scan w).found = true →
    2 ≤ (scan w).rem ∧ (scan w).rem ≤ w.length ∧
    (w.length - (scan w).rem) + 1 < w.length ∧
    (∃ m, candidate w (w.length - (scan w).rem) = some m ∧ isMarker m = true ∧ (scan w).seq = seqOf m) ∧
    ∀ j < w.length - (scan w).rem, markerAt w j = false

/-- 41_scanner.md R132: with no match the remaining length is min(L, 1), and no position of the window is a marker; so for
zero bytes of any length of at least 1. -/
def Obligations.ScanWithoutMarkerKeepsAtMostOneByte : Prop :=
  (∀ w : List Byte, (scan w).found = false → (scan w).rem = min w.length 1 ∧ (scan w).seq = 0 ∧ ∀ j, markerAt w j = false) ∧
  (∀ n : Nat, scan (List.replicate (n + 1) 0) = ⟨false, 1, 0⟩) ∧ (∀ a : Byte, scan [a] = ⟨false, 1, 0⟩) ∧
  scan [] = ⟨false, 0, 0⟩

/-- 41_scanner.md R137: dropping what a failed scan disposed of loses no marker: whatever bytes follow, scanning the kept
tail with them gives the same found, rem and seq as scanning everything, at a position less by what was dropped. -/
def Obligations.DroppingScannedBytesLosesNoMarker : Prop :=
  ∀ w v : List Byte, (scan w).found = false →
    scan (w ++ v) = scan (w.drop (w.length - (scan w).rem) ++ v) ∧
    (w ++ v).length - (scan (w ++ v)).rem =
      ((w.drop (w.length - (scan w).rem) ++ v).length - (scan (w ++ v)).rem) + (w.length - (scan w).rem)

/-! ### The commands of unit BUF -/

/-- 40_buffer.md R100. -/
def Obligations.LenrAnswersUnreadCount : Prop :=
  ∀ s : State, ∃ t, exec .lenr s = .next t ∧ OnlyAnswered s t (doneWord .nothing 0 (s.wr - s.rd)) ∧
    (s.Inv → (rspVal t.lastResponse).toNat = s.wr - s.rd)

/-- 40_buffer.md R101; consumed bytes do not count as free: wherever the read cursor is, the answer is the same. -/
def Obligations.LenwAnswersFreeCount : Prop :=
  ∀ s : State, ∃ t, exec .lenw s = .next t ∧ OnlyAnswered s t (doneWord .nothing 0 (s.build.capacity - s.wr)) ∧
    (s.Inv → (rspVal t.lastResponse).toNat = s.build.capacity - s.wr) ∧
    ∀ r, ∃ u, exec .lenw (s.setRd r) = .next u ∧ u.lastResponse = t.lastResponse

/-- 40_buffer.md R102. -/
def Obligations.RdptrAnswersReadCursor : Prop :=
  ∀ s : State, ∃ t, exec .rdptr s = .next t ∧ OnlyAnswered s t (doneWord .nothing 0 s.rd) ∧
    (s.Inv → (rspVal t.lastResponse).toNat = s.rd)

/-- 40_buffer.md R103. -/
def Obligations.WrptrAnswersWriteCursor : Prop :=
  ∀ s : State, ∃ t, exec .wrptr s = .next t ∧ OnlyAnswered s t (doneWord .nothing 0 s.wr) ∧
    (s.Inv → (rspVal t.lastResponse).toNat = s.wr)

/-- 43_system.md R170 in every state: STAT answers `fcause` in VAL[2:0] and changes nothing. -/
def Obligations.StatAnswersFaultCode : Prop :=
  ∀ s : State, ∃ t, exec .stat s = .next t ∧ OnlyAnswered s t (doneWord .nothing 0 s.fcause.toNat) ∧
    (rspVal t.lastResponse).toNat = s.fcause.toNat

/-- 40_buffer.md R104. -/
def Obligations.PeekAnswersUnreadByteOrIsRefused : Prop :=
  ∀ (n : Nat) (s : State),
    (n < s.lenr → s.wr ≤ s.build.capacity →
      ∃ t, exec (.peek n) s = .next t ∧ OnlyAnswered s t (doneWord .nothing 0 (s.readByte (s.rd + n)).toNat) ∧
        (rspVal t.lastResponse).toNat = (s.readByte (s.rd + n)).toNat) ∧
    (s.lenr ≤ n → ∃ t, exec (.peek n) s = .next t ∧ Refused .peekRange s t)

/-- 40_buffer.md R105: the byte stored is the one at `State.pokeIndex`, every other byte reads as before, no cursor moves
and the unread region is the same. -/
def Obligations.PokeWritesFreeByteOrIsRefused : Prop :=
  ∀ (n : Nat) (b : Byte) (s : State),
    (n < s.lenw →
      ∃ t, exec (.poke n b) s = .next t ∧ s.pokeIndex n = s.wr + n ∧ t.readByte (s.pokeIndex n) = b ∧
        (∀ i, i ≠ s.pokeIndex n → t.readByte i = s.readByte i) ∧ SameCursors s t ∧ t.unread = s.unread ∧
        t.fcause = s.fcause ∧ SameSurround s t ∧ t.output = s.output ++ [doneWord .nothing 0 0]) ∧
    (s.lenw ≤ n → ∃ t, exec (.poke n b) s = .next t ∧ Refused .pokeRange s t)

/-- 40_buffer.md R106: the N bytes from the write cursor on join the unread region with whatever they hold. -/
def Obligations.SeekAdvancesWriteCursorOrIsRefused : Prop :=
  ∀ (n : Nat) (s : State),
    (n ≤ s.lenw →
      ∃ t, exec (.seek n) s = .next t ∧ t.wr = s.wr + n ∧ t.rd = s.rd ∧ t.mem = s.mem ∧ SameBytes s t ∧
        (s.rd ≤ s.wr → t.unread = s.unread ++ Memory.bytesFrom s.draw s.mem s.wr n) ∧
        t.fcause = s.fcause ∧ SameSurround s t ∧ t.output = s.output ++ [doneWord .nothing 0 0]) ∧
    (s.lenw < n → ∃ t, exec (.seek n) s = .next t ∧ Refused .seekOverrun s t)

/-- 40_buffer.md R107: the byte goes to the write cursor, which advances by one; the block is then as after POKE 0, B and
SEEK 1. -/
def Obligations.PutAppendsOneByteOrIsRefused : Prop :=
  ∀ (b : Byte) (s : State),
    (1 ≤ s.lenw →
      ∃ t u, exec (.put b) s = .next t ∧ t.readByte (s.pokeIndex 0) = b ∧ s.pokeIndex 0 = s.wr ∧
        (∀ i, i ≠ s.pokeIndex 0 → t.readByte i = s.readByte i) ∧ t.wr = s.wr + 1 ∧ t.rd = s.rd ∧
        t.fcause = s.fcause ∧ SameSurround s t ∧ t.output = s.output ++ [doneWord .nothing 0 0] ∧
        execAll [.poke 0 b, .seek 1] s = .next u ∧ SameBlock t u) ∧
    (s.lenw = 0 → ∃ t, exec (.put b) s = .next t ∧ Refused .putFull s t)

/-- 40_buffer.md R108: the first N unread bytes leave the unread region; no space is freed. -/
def Obligations.ConsumeAdvancesReadCursorOrIsRefused : Prop :=
  ∀ (n : Nat) (s : State),
    (n ≤ s.lenr →
      ∃ t, exec (.consume n) s = .next t ∧ t.rd = s.rd + n ∧ t.wr = s.wr ∧ t.lenw = s.lenw ∧ t.mem = s.mem ∧
        SameBytes s t ∧ t.unread = s.unread.drop n ∧ t.fcause = s.fcause ∧ SameSurround s t ∧
        t.output = s.output ++ [doneWord .nothing 0 0]) ∧
    (s.lenr < n → ∃ t, exec (.consume n) s = .next t ∧ Refused .consumeOverrun s t)

/-- 40_buffer.md R109: the unread region moves to index 0 as if it were read whole before any byte was written, the other
bytes keep their values, the unread list is the same and free space is all the rest. -/
def Obligations.CompactMovesUnreadRegionToStart : Prop :=
  ∀ s : State, s.wr ≤ s.build.capacity →
    ∃ t, exec .compact s = .next t ∧ t.rd = 0 ∧ t.wr = s.lenr ∧
      (∀ k < s.lenr, t.readByte k = s.readByte (s.rd + k)) ∧ (∀ k, s.lenr ≤ k → t.readByte k = s.readByte k) ∧
      t.unread = s.unread ∧ t.lenw = s.build.capacity - s.lenr ∧ (s.rd = 0 → t.mem = s.mem) ∧
      t.fcause = s.fcause ∧ SameSurround s t ∧ t.output = s.output ++ [doneWord .nothing 0 0]

/-- 40_buffer.md R110. -/
def Obligations.RewindEmptiesTheBuffer : Prop :=
  ∀ s : State, ∃ t, exec .rewind s = .next t ∧ t.rd = 0 ∧ t.wr = 0 ∧ t.lenr = 0 ∧ t.lenw = s.build.capacity ∧
    t.mem = s.mem ∧ SameBytes s t ∧ t.fcause = s.fcause ∧ SameSurround s t ∧ t.output = s.output ++ [doneWord .nothing 0 0]

/-! ### SCAN and SYNC -/

/-- 41_scanner.md R134: SCAN reports the scan of the unread region and changes nothing; a marker found begins at
`U[lenr - rem]`, that is at `mem[wr - rem]`. -/
def Obligations.ScanCommandReportsTheUnreadRegion : Prop :=
  ∀ s : State, s.wr ≤ s.build.capacity →
    ∃ t, exec .scan s = .next t ∧
      ((scan s.unread).found = false → OnlyAnswered s t (doneWord .nothing 0 (scan s.unread).rem)) ∧
      ((scan s.unread).found = true → OnlyAnswered s t (doneWord .found (scan s.unread).seq (scan s.unread).rem) ∧
        markerAt s.unread (s.lenr - (scan s.unread).rem) = true ∧
        s.rd + (s.lenr - (scan s.unread).rem) = s.wr - (scan s.unread).rem)

/-- 42_sync.md R150, R152: the three outcomes of SYNC, what each answers and leaves: the cursors, the unread region, the
free space and every byte of the store. -/
def Obligations.SyncHasThreeOutcomes : Prop :=
  ∀ s : State, s.rd ≤ s.wr → s.wr ≤ s.build.capacity →
    ∃ t, exec .sync s = .next t ∧ t.fcause = s.fcause ∧ SameSurround s t ∧
      t.unread = s.unread.drop (s.lenr - (scan s.unread).rem) ∧
      ((scan s.unread).found = false →
        t.output = s.output ++ [doneWord .nothing 0 (scan s.unread).rem] ∧ (scan s.unread).rem ≤ 1 ∧
        t.rd = 0 ∧ t.wr = (scan s.unread).rem ∧ t.lenw = s.build.capacity - (scan s.unread).rem ∧
        (∀ k < (scan s.unread).rem, t.readByte k = s.readByte (s.wr - (scan s.unread).rem + k)) ∧
        ∀ k, (scan s.unread).rem ≤ k → t.readByte k = s.readByte k) ∧
      ((scan s.unread).found = true → (scan s.unread).rem < s.frameSize →
        t.output = s.output ++ [doneWord .partialFrame (scan s.unread).seq (scan s.unread).rem] ∧
        2 ≤ (scan s.unread).rem ∧ t.rd = 0 ∧ t.wr = (scan s.unread).rem ∧
        t.lenw = s.build.capacity - (scan s.unread).rem ∧ markerAt t.unread 0 = true ∧
        (∀ k < (scan s.unread).rem, t.readByte k = s.readByte (s.wr - (scan s.unread).rem + k)) ∧
        ∀ k, (scan s.unread).rem ≤ k → t.readByte k = s.readByte k) ∧
      ((scan s.unread).found = true → s.frameSize ≤ (scan s.unread).rem →
        t.output = s.output ++ [doneWord .found (scan s.unread).seq (scan s.unread).rem] ∧
        t.rd = s.rd + (s.lenr - (scan s.unread).rem) ∧ t.wr = s.wr ∧ t.lenr = (scan s.unread).rem ∧
        t.lenw = s.lenw ∧ t.mem = s.mem ∧ SameBytes s t ∧ markerAt t.unread 0 = true)

/-- 92_eei_decisions.md D17: SYNC leaves the block as SCAN; CONSUME (lenr - VAL); COMPACT unless FRAME do, with VAL read
from SCAN's response, and answers SCAN's VAL and SEQ. -/
def Obligations.SyncIsScanConsumeCompact : Prop :=
  ∀ s : State, s.Inv →
    ∃ t u v, exec .sync s = .next t ∧ exec .scan s = .next u ∧
      execAll (.consume (s.lenr - (rspVal u.lastResponse).toNat) :: (if answeredFrame t then [] else [.compact])) u = .next v ∧
      SameBlock t v ∧ t.fcause = s.fcause ∧
      rspVal t.lastResponse = rspVal u.lastResponse ∧ rspSeq t.lastResponse = rspSeq u.lastResponse

/-- 42_sync.md R150 (corner cases) and 70_reset_and_hazards.md R209: SYNC repeated with nothing between answers the same
and leaves the block as it is. -/
def Obligations.SyncRepeatedAnswersTheSame : Prop :=
  ∀ s t : State, s.Inv → exec .sync s = .next t →
    ∃ u, exec .sync t = .next u ∧ u.lastResponse = t.lastResponse ∧ SameBlock t u

/-- 42_sync.md R155: an unread region that begins with a valid marker and is shorter than a frame is kept whole, now at
index 0, and SYNC answers PARTIAL. -/
def Obligations.PartialFrameIsRetained : Prop :=
  ∀ s : State, s.rd ≤ s.wr → s.wr ≤ s.build.capacity → markerAt s.unread 0 = true → s.lenr < s.frameSize →
    ∃ t, exec .sync s = .next t ∧ rspRes t.lastResponse = ResultClass.partialFrame.code ∧
      t.unread = s.unread ∧ t.rd = 0 ∧ t.wr = s.lenr

/-- 42_sync.md R154: after FRAME a whole frame lies in the store from the read cursor on and begins with a valid marker;
after PARTIAL the rest of the frame always fits. -/
def Obligations.ReportedFrameIsWholeAndPartialFits : Prop :=
  ∀ s t : State, s.Inv → exec .sync s = .next t →
    (answeredFrame t = true →
      t.frameSize ≤ t.lenr ∧ t.rd + t.frameSize ≤ t.build.capacity ∧ markerAt t.unread 0 = true) ∧
    (rspRes t.lastResponse = ResultClass.partialFrame.code → t.rd = 0 ∧ t.frameSize - t.lenr ≤ t.lenw)

/-- 30_encoding.md R65, R66 and 41_scanner.md R133: an unread region that begins with a whole raw frame is reported as
that frame, whatever the payload, the padding byte and the bytes after it are, and nothing moves. -/
def Obligations.AlignedFrameIsReportedWhateverItHolds : Prop :=
  ∀ (s : State) (f : Frame) (rest : List Byte), s.wr ≤ s.build.capacity → f.payload.length = s.build.payloadSize →
    s.unread = frameBytes f ++ rest →
      ∃ t, exec .sync s = .next t ∧ OnlyAnswered s t (doneWord .found f.seq s.lenr)

/-! ### Rules about every command -/

/-- 10_state.md R32: the store changes only at the indices a command writes: POKE at `wr + N`, PUT at `wr`, COMPACT below
lenr, SYNC (when it compacts) below the kept length; no other command writes at all. -/
def Obligations.StoreChangesOnlyWhereWritten : Prop :=
  ∀ (i : Instr) (s t : State), exec i s = .next t →
    ∀ a : Nat,
      (match i with
        | .poke n _ => a ≠ s.pokeIndex n
        | .put _ => a ≠ s.pokeIndex 0
        | .compact => s.lenr ≤ a
        | .sync => (scan s.unread).rem ≤ a ∨ answeredFrame t = true
        | .lenr | .lenw | .rdptr | .wrptr | .peek _ | .seek _ | .consume _ | .rewind | .scan | .stat => True) →
      t.readByte a = s.readByte a

/-- 10_state.md R27, R30: no command changes the build, the draw of the unspecified contents or the inputs, and each adds
one response. -/
def Obligations.EveryCommandLeavesTheBuildAlone : Prop :=
  ∀ (i : Instr) (s t : State), exec i s = .next t → SameSurround s t ∧ ∃ r, t.output = s.output ++ [r]

/-- 20_memory.md R45: PEEK, SCAN, LENR, LENW, RDPTR, WRPTR and STAT issued twice in a row answer the same and change
nothing; a refused PEEK latches its cause and is left out of the second half (60_exceptions.md R182), and of STAT's case
nothing is left out. -/
def Obligations.QueriesAreIdempotent : Prop :=
  ∀ (i : Instr) (s t u : State), (i = .lenr ∨ i = .lenw ∨ i = .rdptr ∨ i = .wrptr ∨ i = .scan ∨ i = .stat ∨ ∃ n, i = .peek n) →
    exec i s = .next t → exec i t = .next u →
      u.lastResponse = t.lastResponse ∧ (rspRefused t.lastResponse = false → OnlyAnswered s t t.lastResponse)

/-- 10_state.md R28: bytes outside the unread region are hidden. Two states that agree on the cursors, the fault code, the
build and the unread bytes answer every command alike, and still agree afterwards unless the command is SEEK, which can
bring hidden bytes into the unread region. -/
def Obligations.HiddenBytesDoNotShow : Prop :=
  ∀ (i : Instr) (s t s' : State), SameView s t → exec i s = .next s' →
    ∃ t', exec i t = .next t' ∧ t'.lastResponse = s'.lastResponse ∧ ((∀ n, i ≠ .seek n) → SameView s' t')

/-- 10_state.md R23: `lenr + lenw = C - rd`, so it is C exactly when `rd = 0`; and it is so after reset, REWIND, COMPACT and
a SYNC that does not answer FRAME, and stays so whatever the host issues before the first CONSUME or SYNC that drops bytes
and leaves the cursor there. -/
def Obligations.UnreadPlusFreeIsCapacityWhenReadCursorIsZero : Prop :=
  (∀ s : State, s.rd ≤ s.wr → s.wr ≤ s.build.capacity →
    s.lenr + s.lenw = s.build.capacity - s.rd ∧ (s.lenr + s.lenw = s.build.capacity ↔ s.rd = 0)) ∧
  (∀ b : Config.Build, (State.resetFor b).lenr + (State.resetFor b).lenw = b.capacity) ∧
  (∀ s t : State, s.rd ≤ s.wr → s.wr ≤ s.build.capacity →
    (exec .rewind s = .next t ∨ exec .compact s = .next t ∨ (exec .sync s = .next t ∧ answeredFrame t = false)) →
      t.lenr + t.lenw = t.build.capacity) ∧
  ∀ (w : Word) (s t : State), s.rd ≤ s.wr → s.wr ≤ s.build.capacity → s.lenr + s.lenw = s.build.capacity →
    (∀ n, decode w ≠ .ok (.consume n)) → perform w s = .next t →
    (decode w = .ok .sync → answeredFrame t = true → t.lenr = s.lenr) → t.lenr + t.lenw = t.build.capacity

/-- 00_scope.md R9: AW bits hold every cursor value, AW is the least number of bits that holds C, and it is at most 16; the
cursors take every value 0..C. -/
def Obligations.CursorsFitTheirWidth : Prop :=
  (∀ s : State, s.Inv →
    s.rd < 2 ^ cursorWidth s.build ∧ s.wr < 2 ^ cursorWidth s.build ∧ cursorWidth s.build ≤ 16 ∧
      s.build.capacity < 2 ^ cursorWidth s.build ∧ ∀ k, s.build.capacity < 2 ^ k → cursorWidth s.build ≤ k) ∧
  ∀ (b : Config.Build) (v : Nat), legalBuild b → v ≤ b.capacity →
    ∃ t, execAll [.seek v, .consume v] (State.resetFor b) = .next t ∧ t.rd = v ∧ t.wr = v

/-- 10_state.md R20 (the table) and R27; 40_buffer.md R102, R103: only CONSUME, COMPACT, REWIND and SYNC move the read
cursor; only SEEK, PUT, COMPACT, REWIND and a SYNC that compacts move the write cursor. -/
def Obligations.CursorsMoveOnlyByTheirCommands : Prop :=
  ∀ (i : Instr) (s t : State), exec i s = .next t →
    (t.rd ≠ s.rd → (∃ n, i = .consume n) ∨ i = .compact ∨ i = .rewind ∨ i = .sync) ∧
    (t.wr ≠ s.wr → (∃ n, i = .seek n) ∨ (∃ b, i = .put b) ∨ i = .compact ∨ i = .rewind ∨
      (i = .sync ∧ answeredFrame t = false))

/-! ### The host's protocols -/

/-- 40_buffer.md R111 and 30_encoding.md R75: appending k <= lenw bytes by PUTs or by POKEs and one SEEK leaves the block
alike: the bytes at the old write cursor, every other byte as before, `wr` advanced by k, nothing refused. -/
def Obligations.AppendAndAppendRawAgree : Prop :=
  ∀ (bs : List Byte) (s : State), bs.length ≤ s.lenw →
    ∃ t u, execAll (appendCommands bs) s = .next t ∧ execAll (appendRawCommands bs) s = .next u ∧ SameBlock t u ∧
      t.wr = s.wr + bs.length ∧ t.rd = s.rd ∧ t.fcause = s.fcause ∧
      Memory.bytesFrom t.draw t.mem s.wr bs.length = bs ∧
      ∀ i, (i < s.wr ∨ s.wr + bs.length ≤ i) → t.readByte i = s.readByte i

/-- 30_encoding.md R75 (the last paragraph): with more bytes than fit, APPEND stores the ones that fit and its first
refusal is PUT_FULL; APPENDRAW appends nothing and its first refusal is POKE_RANGE. -/
def Obligations.AppendAndAppendRawDifferUnderOverrun : Prop :=
  ∀ (bs : List Byte) (s : State), s.wr ≤ s.build.capacity → s.lenw < bs.length → s.fcause = 0 →
    ∃ t u, execAll (appendCommands bs) s = .next t ∧ execAll (appendRawCommands bs) s = .next u ∧
      t.wr = s.build.capacity ∧ Memory.bytesFrom t.draw t.mem s.wr s.lenw = bs.take s.lenw ∧
      t.fcause = Cause.putFull.code ∧ u.wr = s.wr ∧ u.rd = s.rd ∧ u.fcause = Cause.pokeRange.code

/-- 40_buffer.md R111, the second half: draining j <= lenr bytes answers the first j unread bytes in order and drops them;
the space comes back only with a COMPACT. -/
def Obligations.DrainReadsAndDropsTheFirstBytes : Prop :=
  ∀ (j : Nat) (s : State), j ≤ s.lenr → s.wr ≤ s.build.capacity →
    ∃ t, execAll (drainCommands j) s = .next t ∧
      t.output = s.output ++ ((s.unread.take j).map fun b => doneWord .nothing 0 b.toNat) ++ [doneWord .nothing 0 0] ∧
      t.unread = s.unread.drop j ∧ t.lenw = s.lenw ∧ t.mem = s.mem ∧ t.fcause = s.fcause ∧ SameSurround s t

/-- 42_sync.md R151: the decode pass always ends, compacted (`rd = 0`), with none of its commands refused and the invariant
kept, whatever the sink says (the sink's verdicts are a list, past whose end the sink takes nothing: log entry 16). -/
def Obligations.DecodePassEndsCompacted : Prop :=
  ∀ (sinks : List Bool) (s : State), s.Inv →
    ∃ t, decodePass sinks s = .next t ∧ t.rd = 0 ∧ t.fcause = s.fcause ∧ t.build = s.build ∧ t.Inv ∧
      ∃ answers, t.output = s.output ++ answers ∧ ∀ r ∈ answers, rspRefused r = false

/-- 42_sync.md R153: with a sink that takes every block, a pass of at most `lenr / FRAME_SIZE` frames is over: what is left
is shorter than a frame (the sink's verdicts as a list: log entry 16). -/
def Obligations.DecodePassTakesAtMostLenrOverFrameSizeFrames : Prop :=
  ∀ (k : Nat) (s : State), s.Inv → s.lenr / s.frameSize ≤ k →
    ∃ t, decodePass (List.replicate k true) s = .next t ∧ t.lenr < t.frameSize ∧ t.rd = 0

/-- The decode half of 95_test_vectors.md S6 and P5 (42_sync.md R151, R152): whole frames back to back come out one by one,
each with its sequence value and its payload, in order, and nothing is left (the sink's verdicts as a list: log entry 16). -/
def Obligations.AlignedStreamDecodesFrameByFrame : Prop :=
  ∀ (frames : List Frame) (s : State), s.Inv → (∀ f ∈ frames, f.payload.length = s.build.payloadSize) →
    s.unread = frames.flatMap frameBytes →
      ∃ t, decodePass (List.replicate frames.length true) s = .next t ∧
        t.output = s.output ++ streamResponses s.frameSize frames ∧ t.rd = 0 ∧ t.wr = 0 ∧ t.fcause = s.fcause
end

