-- ==== Sys2Proof/Laws/State.lean ====
section
/-! SUPPORT. One lemma per field per update of the state, and the fields of the composed updates. -/

namespace Sys2Proof.Machine.State

variable (s : State)

@[simp] theorem setMem_build (m : Memory) : (s.setMem m).build = s.build := rfl
@[simp] theorem setMem_mem (m : Memory) : (s.setMem m).mem = m := rfl
@[simp] theorem setMem_rd (m : Memory) : (s.setMem m).rd = s.rd := rfl
@[simp] theorem setMem_wr (m : Memory) : (s.setMem m).wr = s.wr := rfl
@[simp] theorem setMem_fcause (m : Memory) : (s.setMem m).fcause = s.fcause := rfl
@[simp] theorem setMem_draw (m : Memory) : (s.setMem m).draw = s.draw := rfl
@[simp] theorem setMem_input (m : Memory) : (s.setMem m).input = s.input := rfl
@[simp] theorem setMem_output (m : Memory) : (s.setMem m).output = s.output := rfl

@[simp] theorem setRd_build (n : Nat) : (s.setRd n).build = s.build := rfl
@[simp] theorem setRd_mem (n : Nat) : (s.setRd n).mem = s.mem := rfl
@[simp] theorem setRd_rd (n : Nat) : (s.setRd n).rd = n := rfl
@[simp] theorem setRd_wr (n : Nat) : (s.setRd n).wr = s.wr := rfl
@[simp] theorem setRd_fcause (n : Nat) : (s.setRd n).fcause = s.fcause := rfl
@[simp] theorem setRd_draw (n : Nat) : (s.setRd n).draw = s.draw := rfl
@[simp] theorem setRd_input (n : Nat) : (s.setRd n).input = s.input := rfl
@[simp] theorem setRd_output (n : Nat) : (s.setRd n).output = s.output := rfl

@[simp] theorem setWr_build (n : Nat) : (s.setWr n).build = s.build := rfl
@[simp] theorem setWr_mem (n : Nat) : (s.setWr n).mem = s.mem := rfl
@[simp] theorem setWr_rd (n : Nat) : (s.setWr n).rd = s.rd := rfl
@[simp] theorem setWr_wr (n : Nat) : (s.setWr n).wr = n := rfl
@[simp] theorem setWr_fcause (n : Nat) : (s.setWr n).fcause = s.fcause := rfl
@[simp] theorem setWr_draw (n : Nat) : (s.setWr n).draw = s.draw := rfl
@[simp] theorem setWr_input (n : Nat) : (s.setWr n).input = s.input := rfl
@[simp] theorem setWr_output (n : Nat) : (s.setWr n).output = s.output := rfl

@[simp] theorem setFcause_build (f : BitVec 3) : (s.setFcause f).build = s.build := rfl
@[simp] theorem setFcause_mem (f : BitVec 3) : (s.setFcause f).mem = s.mem := rfl
@[simp] theorem setFcause_rd (f : BitVec 3) : (s.setFcause f).rd = s.rd := rfl
@[simp] theorem setFcause_wr (f : BitVec 3) : (s.setFcause f).wr = s.wr := rfl
@[simp] theorem setFcause_fcause (f : BitVec 3) : (s.setFcause f).fcause = f := rfl
@[simp] theorem setFcause_draw (f : BitVec 3) : (s.setFcause f).draw = s.draw := rfl
@[simp] theorem setFcause_input (f : BitVec 3) : (s.setFcause f).input = s.input := rfl
@[simp] theorem setFcause_output (f : BitVec 3) : (s.setFcause f).output = s.output := rfl

@[simp] theorem setInput_build (l : List HostEvent) : (s.setInput l).build = s.build := rfl
@[simp] theorem setInput_mem (l : List HostEvent) : (s.setInput l).mem = s.mem := rfl
@[simp] theorem setInput_rd (l : List HostEvent) : (s.setInput l).rd = s.rd := rfl
@[simp] theorem setInput_wr (l : List HostEvent) : (s.setInput l).wr = s.wr := rfl
@[simp] theorem setInput_fcause (l : List HostEvent) : (s.setInput l).fcause = s.fcause := rfl
@[simp] theorem setInput_draw (l : List HostEvent) : (s.setInput l).draw = s.draw := rfl
@[simp] theorem setInput_input (l : List HostEvent) : (s.setInput l).input = l := rfl
@[simp] theorem setInput_output (l : List HostEvent) : (s.setInput l).output = s.output := rfl

@[simp] theorem answer_build (r : Word) : (s.answer r).build = s.build := rfl
@[simp] theorem answer_mem (r : Word) : (s.answer r).mem = s.mem := rfl
@[simp] theorem answer_rd (r : Word) : (s.answer r).rd = s.rd := rfl
@[simp] theorem answer_wr (r : Word) : (s.answer r).wr = s.wr := rfl
@[simp] theorem answer_fcause (r : Word) : (s.answer r).fcause = s.fcause := rfl
@[simp] theorem answer_draw (r : Word) : (s.answer r).draw = s.draw := rfl
@[simp] theorem answer_input (r : Word) : (s.answer r).input = s.input := rfl
@[simp] theorem answer_output (r : Word) : (s.answer r).output = s.output ++ [r] := rfl

@[simp] theorem afterFault_build (c : Cause) : (s.afterFault c).build = s.build := rfl
@[simp] theorem afterFault_mem (c : Cause) : (s.afterFault c).mem = s.mem := rfl
@[simp] theorem afterFault_rd (c : Cause) : (s.afterFault c).rd = s.rd := rfl
@[simp] theorem afterFault_wr (c : Cause) : (s.afterFault c).wr = s.wr := rfl
@[simp] theorem afterFault_fcause (c : Cause) : (s.afterFault c).fcause = latchCause c s.fcause := rfl
@[simp] theorem afterFault_draw (c : Cause) : (s.afterFault c).draw = s.draw := rfl
@[simp] theorem afterFault_input (c : Cause) : (s.afterFault c).input = s.input := rfl
@[simp] theorem afterFault_output (c : Cause) : (s.afterFault c).output = s.output ++ [refusedWord c] := rfl

@[simp] theorem afterReset_build (l : List HostEvent) : (s.afterReset l).build = s.build := rfl
@[simp] theorem afterReset_mem (l : List HostEvent) : (s.afterReset l).mem = [] := rfl
@[simp] theorem afterReset_rd (l : List HostEvent) : (s.afterReset l).rd = 0 := rfl
@[simp] theorem afterReset_wr (l : List HostEvent) : (s.afterReset l).wr = 0 := rfl
@[simp] theorem afterReset_fcause (l : List HostEvent) : (s.afterReset l).fcause = 0 := rfl
@[simp] theorem afterReset_draw (l : List HostEvent) : (s.afterReset l).draw = s.draw + 1 := rfl
@[simp] theorem afterReset_input (l : List HostEvent) : (s.afterReset l).input = l := rfl
@[simp] theorem afterReset_output (l : List HostEvent) : (s.afterReset l).output = s.output := rfl

/-! The derived quantities under the updates that do not touch them. -/

@[simp] theorem setMem_lenr (m : Memory) : (s.setMem m).lenr = s.lenr := rfl
@[simp] theorem setMem_lenw (m : Memory) : (s.setMem m).lenw = s.lenw := rfl
@[simp] theorem setMem_frameSize (m : Memory) : (s.setMem m).frameSize = s.frameSize := rfl
@[simp] theorem setRd_lenw (n : Nat) : (s.setRd n).lenw = s.lenw := rfl
@[simp] theorem setRd_frameSize (n : Nat) : (s.setRd n).frameSize = s.frameSize := rfl
@[simp] theorem setRd_readByte (n : Nat) (i : Nat) : (s.setRd n).readByte i = s.readByte i := rfl
@[simp] theorem setWr_frameSize (n : Nat) : (s.setWr n).frameSize = s.frameSize := rfl
@[simp] theorem setWr_readByte (n : Nat) (i : Nat) : (s.setWr n).readByte i = s.readByte i := rfl
@[simp] theorem setFcause_lenr (f : BitVec 3) : (s.setFcause f).lenr = s.lenr := rfl
@[simp] theorem setFcause_lenw (f : BitVec 3) : (s.setFcause f).lenw = s.lenw := rfl
@[simp] theorem setFcause_frameSize (f : BitVec 3) : (s.setFcause f).frameSize = s.frameSize := rfl
@[simp] theorem setFcause_readByte (f : BitVec 3) (i : Nat) : (s.setFcause f).readByte i = s.readByte i := rfl
@[simp] theorem setFcause_unread (f : BitVec 3) : (s.setFcause f).unread = s.unread := rfl
@[simp] theorem setInput_lenr (l : List HostEvent) : (s.setInput l).lenr = s.lenr := rfl
@[simp] theorem setInput_lenw (l : List HostEvent) : (s.setInput l).lenw = s.lenw := rfl
@[simp] theorem setInput_frameSize (l : List HostEvent) : (s.setInput l).frameSize = s.frameSize := rfl
@[simp] theorem setInput_readByte (l : List HostEvent) (i : Nat) : (s.setInput l).readByte i = s.readByte i := rfl
@[simp] theorem setInput_unread (l : List HostEvent) : (s.setInput l).unread = s.unread := rfl
@[simp] theorem answer_lenr (r : Word) : (s.answer r).lenr = s.lenr := rfl
@[simp] theorem answer_lenw (r : Word) : (s.answer r).lenw = s.lenw := rfl
@[simp] theorem answer_frameSize (r : Word) : (s.answer r).frameSize = s.frameSize := rfl
@[simp] theorem answer_readByte (r : Word) (i : Nat) : (s.answer r).readByte i = s.readByte i := rfl
@[simp] theorem answer_unread (r : Word) : (s.answer r).unread = s.unread := rfl
@[simp] theorem setMem_readByte (m : Memory) (i : Nat) : (s.setMem m).readByte i = Memory.read s.draw m i := rfl
@[simp] theorem answer_lastResponse (r : Word) : (s.answer r).lastResponse = r := by simp [lastResponse]
@[simp] theorem afterFault_lastResponse (c : Cause) : (s.afterFault c).lastResponse = refusedWord c := by
  simp [lastResponse]

end Sys2Proof.Machine.State
end

