-- ==== Sys2Proof/Laws/Memory.lean ====
section
/-! SUPPORT. What the operations over the store do: read after write, the copy of a compaction, the canonical form. -/

namespace Sys2Proof.Machine.Memory

/-! ### Reading -/

theorem lookup_write (m : Memory) (i j : Nat) (b : Byte) :
    lookup (write m i b) j = if j = i then some b else lookup m j := by
  induction m with
  | nil => grind [write, lookup]
  | cons c m ih => grind [write, lookup]

theorem read_write (d : Nat) (m : Memory) (i j : Nat) (b : Byte) :
    read d (write m i b) j = if j = i then b else read d m j := by
  unfold read
  rw [lookup_write]
  split <;> simp

@[simp] theorem read_write_self (d : Nat) (m : Memory) (i : Nat) (b : Byte) : read d (write m i b) i = b := by
  simp [read_write]

theorem read_write_other (d : Nat) (m : Memory) {i j : Nat} (b : Byte) (h : j ≠ i) :
    read d (write m i b) j = read d m j := by
  simp [read_write, h]

@[simp] theorem read_nil (d i : Nat) : read d [] i = Config.resetByte d i := rfl

/-! ### Copying -/

theorem read_copyByte (d : Nat) (m : Memory) (dst src j : Nat) :
    read d (copyByte d m dst src) j = if j = dst then read d m src else read d m j := by
  unfold copyByte
  split
  · split <;> simp_all
  · exact read_write ..

/-- Everything a compaction's copy does to the bytes: the first `n` indices read as the source did before, the rest as
before (40_buffer.md R109, "as if the whole source were read before any byte was written"). -/
theorem read_copyDown (d : Nat) (m : Memory) (src n j : Nat) :
    read d (copyDown d m src n) j = if j < n then read d m (src + j) else read d m j := by
  induction n generalizing j with
  | zero => simp [copyDown]
  | succ n ih =>
    have hsrc : ¬ src + n < n := by omega
    rw [copyDown, read_copyByte, ih, ih, if_neg hsrc]
    by_cases hj : j = n
    · subst hj; simp
    · rw [if_neg hj]
      by_cases h : j < n
      · rw [if_pos h, if_pos (by omega)]
      · rw [if_neg h, if_neg (by omega)]

theorem copyDown_from_zero (d : Nat) (m : Memory) (n : Nat) : copyDown d m 0 n = m := by
  induction n with
  | zero => rfl
  | succ n ih => simp [copyDown, copyByte, ih]

/-! ### The canonical form -/

theorem wf_tail {c : Host.Cell} {m : Memory} (h : wf (c :: m) = true) : wf m = true := by
  cases m with
  | nil => rfl
  | cons c' m => simp [wf] at h; exact h.2

theorem wf_cons {c : Host.Cell} {m : Memory} (hm : wf m = true) (hc : ∀ x ∈ m.head?, c.1 < x.1) : wf (c :: m) = true := by
  cases m with
  | nil => rfl
  | cons c' m => simp [wf]; exact ⟨hc c' rfl, hm⟩

theorem wf_head_lt {c : Host.Cell} {m : Memory} (h : wf (c :: m) = true) : ∀ x ∈ m.head?, c.1 < x.1 := by
  cases m with
  | nil => simp
  | cons c' m => simp [wf] at h; simpa using h.1

theorem head_write_lt (a : Nat) (m : Memory) (i : Nat) (b : Byte) (hi : a < i) (h : ∀ x ∈ m.head?, a < x.1) :
    ∀ x ∈ (write m i b).head?, a < x.1 := by
  cases m with
  | nil => simpa [write] using hi
  | cons c m =>
    obtain ⟨k, v⟩ := c
    have hk : a < k := by simpa using h (k, v) rfl
    unfold write
    split
    · simpa using hi
    · split
      · simpa using hi
      · simpa using hk

/-- A write keeps the canonical form. -/
theorem wf_write {m : Memory} (h : wf m = true) (i : Nat) (b : Byte) : wf (write m i b) = true := by
  induction m with
  | nil => rfl
  | cons c m ih =>
    obtain ⟨a, v⟩ := c
    unfold write
    split
    · exact wf_cons h (by simpa using ‹i < a›)
    · split
      · rename_i hia
        exact wf_cons (wf_tail h) fun x hx => hia ▸ wf_head_lt h x hx
      · exact wf_cons (ih (wf_tail h)) (head_write_lt a m i b (by omega) (wf_head_lt h))

/-- A copied byte keeps the canonical form. -/
theorem wf_copyByte {m : Memory} (h : wf m = true) (d dst src : Nat) : wf (copyByte d m dst src) = true := by
  unfold copyByte
  split
  · exact h
  · exact wf_write h _ _

/-- A compaction's copy keeps the canonical form. -/
theorem wf_copyDown {m : Memory} (h : wf m = true) (d src n : Nat) : wf (copyDown d m src n) = true := by
  induction n with
  | zero => exact h
  | succ n ih => exact wf_copyByte ih d n (src + n)

/-! ### Which indices are listed -/

theorem mem_write {m : Memory} {i : Nat} {b : Byte} {c : Host.Cell} (h : c ∈ write m i b) : c = (i, b) ∨ c ∈ m := by
  induction m with
  | nil => simpa [write] using h
  | cons c' m ih =>
    obtain ⟨a, v⟩ := c'
    unfold write at h
    split at h
    · simpa using h
    · split at h
      · simp at h ⊢; tauto
      · simp at h ⊢; tauto

/-- A write inside the store lists no index outside it. -/
theorem inside_write {m : Memory} {C i : Nat} (b : Byte) (h : ∀ c ∈ m, c.1 < C) (hi : i < C) :
    ∀ c ∈ write m i b, c.1 < C := by
  intro c hc
  rcases mem_write hc with rfl | hc
  · exact hi
  · exact h c hc

/-- A compaction's copy of `n ≤ C` bytes lists no index outside the store. -/
theorem inside_copyDown {m : Memory} {C : Nat} (d src n : Nat) (h : ∀ c ∈ m, c.1 < C) (hn : n ≤ C) :
    ∀ c ∈ copyDown d m src n, c.1 < C := by
  induction n with
  | zero => exact h
  | succ n ih =>
    unfold copyDown copyByte
    split
    · exact ih (by omega)
    · exact inside_write _ (ih (by omega)) (by omega)

/-! ### Ranges of bytes -/

@[simp] theorem length_bytesFrom (d : Nat) (m : Memory) (a n : Nat) : (bytesFrom d m a n).length = n := by
  induction n generalizing a with
  | zero => rfl
  | succ n ih => simp [bytesFrom, ih]

theorem getElem?_bytesFrom (d : Nat) (m : Memory) (a n k : Nat) :
    (bytesFrom d m a n)[k]? = if k < n then some (read d m (a + k)) else none := by
  induction n generalizing a k with
  | zero => simp [bytesFrom]
  | succ n ih =>
    cases k with
    | zero => simp [bytesFrom]
    | succ k =>
      simp only [bytesFrom, List.getElem?_cons_succ, ih, Nat.add_lt_add_iff_right]
      rw [show a + 1 + k = a + (k + 1) by omega]

/-- Two ranges with the same bytes are the same list. -/
theorem bytesFrom_congr {d d' : Nat} {m m' : Memory} {a a' n : Nat}
    (h : ∀ k < n, read d m (a + k) = read d' m' (a' + k)) : bytesFrom d m a n = bytesFrom d' m' a' n := by
  apply List.ext_getElem?
  intro k
  rw [getElem?_bytesFrom, getElem?_bytesFrom]
  split
  · rw [h k ‹_›]
  · rfl

theorem bytesFrom_append (d : Nat) (m : Memory) (a n k : Nat) :
    bytesFrom d m a (n + k) = bytesFrom d m a n ++ bytesFrom d m (a + n) k := by
  induction n generalizing a with
  | zero => simp [bytesFrom]
  | succ n ih => rw [show n + 1 + k = (n + k) + 1 by omega]; simp [bytesFrom, ih, Nat.add_assoc, Nat.add_comm 1 n]

theorem bytesFrom_drop (d : Nat) (m : Memory) (a n k : Nat) :
    (bytesFrom d m a n).drop k = bytesFrom d m (a + k) (n - k) := by
  apply List.ext_getElem?
  intro j
  rw [List.getElem?_drop, getElem?_bytesFrom, getElem?_bytesFrom, Nat.add_assoc]
  congr 1
  simp only [eq_iff_iff]
  omega

end Sys2Proof.Machine.Memory
end

