-- ==== Sys2Proof/Laws/Ops.lean ====
section
/-! SUPPORT. For each shared operation, once, everything it can do. -/

namespace Sys2Proof.Machine

theorem onOk_eq_next {α : Type} {r : Except Fault α} {k : α → Result} {t : State} :
    onOk r k = .next t ↔ ∃ a, r = .ok a ∧ k a = .next t := by
  cases r <;> simp [onOk]

theorem andThen_eq_next {r : Result} {k : State → Result} {t : State} :
    andThen r k = .next t ↔ ∃ u, r = .next u ∧ k u = .next t := by
  cases r <;> simp [andThen]

@[simp] theorem onOk_ok {α : Type} (a : α) (k : α → Result) : onOk (.ok a) k = k a := rfl

@[simp] theorem andThen_next (s : State) (k : State → Result) : andThen (.next s) k = k s := rfl

theorem respond_eq_next {res : ResultClass} {seq : BitVec 2} {val : Nat} {s t : State} :
    respond res seq val s = .next t ↔ t = s.answer (doneWord res seq val) := by
  simp [respond, eq_comm]

theorem respondVal_eq_next {val : Nat} {s t : State} :
    respondVal val s = .next t ↔ t = s.answer (doneWord .nothing 0 val) := respond_eq_next

theorem respondDone_eq_next {s t : State} : respondDone s = .next t ↔ t = s.answer (doneWord .nothing 0 0) :=
  respond_eq_next

theorem raiseFault_eq_next {c : Cause} {s t : State} : raiseFault c s = .next t ↔ t = s.afterFault c := by
  simp [raiseFault, eq_comm]

theorem memRead_eq_ok {s : State} {a : Nat} {b : Byte} :
    s.memRead a = .ok b ↔ a < s.build.capacity ∧ b = s.readByte a := by
  unfold State.memRead; split <;> simp_all [eq_comm]

theorem memWrite_eq_ok {s t : State} {a : Nat} {v : Byte} :
    s.memWrite a v = .ok t ↔ a < s.build.capacity ∧ t = s.setMem (Memory.write s.mem a v) := by
  unfold State.memWrite; split <;> simp_all [eq_comm]

theorem readRange_eq_ok {s : State} {a n : Nat} {w : List Byte} :
    s.readRange a n = .ok w ↔ (n = 0 ∨ a + n ≤ s.build.capacity) ∧ w = Memory.bytesFrom s.draw s.mem a n := by
  unfold State.readRange; split <;> simp_all [eq_comm]

/-- Reading the unread region of a state whose write cursor is in the store. -/
theorem readRange_unread {s : State} (h : s.wr ≤ s.build.capacity) : s.readRange s.rd s.lenr = .ok s.unread := by
  rw [readRange_eq_ok]
  refine ⟨?_, rfl⟩
  unfold State.lenr; omega

theorem compactSteps_eq_ok {s t : State} :
    s.compactSteps = .ok t ↔ (s.lenr = 0 ∨ s.rd + s.lenr ≤ s.build.capacity) ∧
      t = ((s.setMem (Memory.copyDown s.draw s.mem s.rd s.lenr)).setWr s.lenr).setRd 0 := by
  unfold State.compactSteps; split <;> simp_all [eq_comm]

/-- The bytes after COMPACT-steps: the unread region at index 0, the rest as before (40_buffer.md R109). -/
theorem compactSteps_readByte {s t : State} (h : s.compactSteps = .ok t) (i : Nat) :
    t.readByte i = if i < s.lenr then s.readByte (s.rd + i) else s.readByte i := by
  obtain ⟨-, rfl⟩ := compactSteps_eq_ok.mp h
  simp [State.readByte, Memory.read_copyDown]

@[simp] theorem length_unread (s : State) : s.unread.length = s.lenr := by simp [State.unread]

theorem getElem?_unread (s : State) (k : Nat) :
    s.unread[k]? = if k < s.lenr then some (s.readByte (s.rd + k)) else none := Memory.getElem?_bytesFrom ..

/-! ### The scan, position by position -/

theorem scan_nil : scan [] = ⟨false, 0, 0⟩ := rfl

theorem scan_single (a : Byte) : scan [a] = ⟨false, 1, 0⟩ := rfl

theorem scan_marker {a b : Byte} (rest : List Byte) (h : isMarker (littleEndian a b) = true) :
    scan (a :: b :: rest) = ⟨true, rest.length + 2, seqOf (littleEndian a b)⟩ := by simp [scan, h]

theorem scan_skip {a b : Byte} (rest : List Byte) (h : isMarker (littleEndian a b) = false) :
    scan (a :: b :: rest) = scan (b :: rest) := by simp [scan, h]

/-- A scan never reports more than the window has (40_buffer.md R112). -/
theorem scan_rem_le (w : List Byte) : (scan w).rem ≤ w.length := by
  induction w using scan.induct with
  | case1 => simp [scan]
  | case2 => simp [scan]
  | case3 a b rest h => simp [scan, h]
  | case4 a b rest h ih =>
    rw [scan_skip rest (by simpa using h)]
    simp only [List.length_cons] at ih ⊢
    omega

theorem candidate_cons (a : Byte) (w : List Byte) (i : Nat) : candidate (a :: w) (i + 1) = candidate w i := rfl

end Sys2Proof.Machine
end

