-- ==== Sys2Proof/Laws/PerInstr.lean ====
section
/-! SUPPORT. The family `EncodeSelectsRow`: the word of a command is selected by the command's own row of the opcode map
(30_encoding.md R69), one lemma per constructor. -/

namespace Sys2Proof

theorem packCommand_and (op mop : BitVec 8) (b mb : Byte) (n mn : Half) :
    packCommand op b n &&& packCommand mop mb mn = packCommand (op &&& mop) (b &&& mb) (n &&& mn) := by
  have h := BitVec.and_append (x₁ := op ++ b) (y₁ := n) (x₂ := mop ++ mb) (y₂ := mn)
  rw [BitVec.and_append (x₁ := op)] at h
  exact h

namespace Laws.EncodeSelectsRow

/-- The encoded word, masked with the row's mask, is the row's match. -/
def Statement (i : Instr) : Prop := encode i &&& i.rowMask = i.rowMatch

theorem of_masks (i : Instr) (mb : Byte) (mn : Half) (hm : i.rowMask = packCommand 0xFF#8 mb mn)
    (hb : i.byteOperand &&& mb = 0) (hn : BitVec.ofNat 16 i.countOperand &&& mn = 0) : Statement i := by
  unfold Statement encode Instr.rowMatch
  rw [hm, packCommand_and, hb, hn]
  exact congrArg (packCommand · 0 0) (BitVec.and_allOnes (x := i.opcode))

theorem lenr : Statement .lenr := rfl
theorem lenw : Statement .lenw := rfl
theorem rdptr : Statement .rdptr := rfl
theorem wrptr : Statement .wrptr := rfl
theorem peek (n : Nat) : Statement (.peek n) := of_masks _ 0xFF 0 rfl (by simp [Instr.byteOperand]) (by simp)
theorem poke (n : Nat) (b : Byte) : Statement (.poke n b) := of_masks _ 0 0 rfl (by simp) (by simp)
theorem seek (n : Nat) : Statement (.seek n) := of_masks _ 0xFF 0 rfl (by simp [Instr.byteOperand]) (by simp)
theorem put (b : Byte) : Statement (.put b) := of_masks _ 0 0xFFFF rfl (by simp) (by simp [Instr.countOperand])
theorem consume (n : Nat) : Statement (.consume n) := of_masks _ 0xFF 0 rfl (by simp [Instr.byteOperand]) (by simp)
theorem compact : Statement .compact := rfl
theorem rewind : Statement .rewind := rfl
theorem scan : Statement .scan := rfl
theorem sync : Statement .sync := rfl
theorem stat : Statement .stat := rfl

end Laws.EncodeSelectsRow

end Sys2Proof
end

