-- ==== Sys2Proof/Laws/Words.lean ====
section
/-! SUPPORT. Words as numbers: what a packed word is worth, and its fields back (30_encoding.md R67, R70). -/

namespace Sys2Proof

/-- An appended bit vector as a number. -/
theorem toNat_append_add {n m : Nat} (x : BitVec n) (y : BitVec m) : (x ++ y).toNat = x.toNat * 2 ^ m + y.toNat := by
  rw [BitVec.toNat_append, ← Nat.shiftLeft_add_eq_or_of_lt y.isLt, Nat.shiftLeft_eq]

theorem packCommand_toNat (op : BitVec 8) (b : Byte) (n : Half) :
    (packCommand op b n).toNat = op.toNat * 16777216 + b.toNat * 65536 + n.toNat := by
  unfold packCommand
  rw [toNat_append_add (op ++ b) n, toNat_append_add op b]
  omega

@[simp] theorem opField_packCommand (op : BitVec 8) (b : Byte) (n : Half) : opField (packCommand op b n) = op := by
  apply BitVec.eq_of_toNat_eq
  rw [opField, BitVec.extractLsb'_toNat, packCommand_toNat, Nat.shiftRight_eq_div_pow]
  omega

@[simp] theorem byteField_packCommand (op : BitVec 8) (b : Byte) (n : Half) : byteField (packCommand op b n) = b := by
  apply BitVec.eq_of_toNat_eq
  rw [byteField, BitVec.extractLsb'_toNat, packCommand_toNat, Nat.shiftRight_eq_div_pow]
  omega

@[simp] theorem countField_packCommand (op : BitVec 8) (b : Byte) (n : Half) : countField (packCommand op b n) = n := by
  apply BitVec.eq_of_toNat_eq
  rw [countField, BitVec.extractLsb'_toNat, packCommand_toNat, Nat.shiftRight_eq_div_pow]
  omega

/-- A word is its three fields. -/
theorem packCommand_fields (w : Word) : packCommand (opField w) (byteField w) (countField w) = w := by
  apply BitVec.eq_of_toNat_eq
  simp only [packCommand_toNat, opField, byteField, countField, BitVec.extractLsb'_toNat, Nat.shiftRight_eq_div_pow]
  omega

namespace Machine

/-- `mem[a] + 256 * mem[a + 1]` (20_memory.md R42). -/
theorem littleEndian_toNat (lo hi : Byte) : (littleEndian lo hi).toNat = lo.toNat + 256 * hi.toNat := by
  unfold littleEndian
  rw [toNat_append_add hi lo]
  omega

theorem doneWord_toNat (res : ResultClass) (seq : BitVec 2) (val : Nat) :
    (doneWord res seq val).toNat = res.code.toNat * 16777216 + seq.toNat * 65536 + val % 65536 := by
  unfold doneWord
  rw [toNat_append_add (0#6 ++ res.code ++ 0#6 ++ seq) (BitVec.ofNat 16 val), toNat_append_add (0#6 ++ res.code ++ 0#6) seq,
    toNat_append_add (0#6 ++ res.code) 0#6, toNat_append_add 0#6 res.code]
  simp only [BitVec.toNat_ofNat]
  omega

@[simp] theorem rspRefused_doneWord (res : ResultClass) (seq : BitVec 2) (val : Nat) :
    rspRefused (doneWord res seq val) = false := by
  have hr := res.code.isLt
  have hs := seq.isLt
  rw [rspRefused, BitVec.getLsbD, doneWord_toNat]
  exact Nat.testBit_lt_two_pow (by omega)

@[simp] theorem rspRefused_refusedWord (c : Cause) : rspRefused (refusedWord c) = true := by cases c <;> rfl

@[simp] theorem rspCause_refusedWord (c : Cause) : rspCause (refusedWord c) = c.code := by cases c <;> rfl

/-- No cause has code 0 (60_exceptions.md R180). -/
theorem Cause.code_ne_zero (c : Cause) : c.code ≠ 0 := by cases c <;> decide

/-- One more response sets the first cause where there was none (43_system.md R170). -/
theorem firstRefusalCause_append (l : List Word) (hl : ∀ x ∈ l, rspRefused x = true → rspCause x ≠ 0) (r : Word) :
    firstRefusalCause (l ++ [r]) =
      if firstRefusalCause l = 0 then (if rspRefused r then rspCause r else 0) else firstRefusalCause l := by
  induction l with
  | nil => rfl
  | cons a l ih =>
    have ih := ih fun x hx => hl x (List.mem_cons_of_mem a hx)
    simp only [List.cons_append, firstRefusalCause]
    by_cases ha : rspRefused a = true
    · simp only [if_pos ha, if_neg (hl a List.mem_cons_self ha)]
    · simp only [if_neg ha, ih]

@[simp] theorem rspRes_doneWord (res : ResultClass) (seq : BitVec 2) (val : Nat) :
    rspRes (doneWord res seq val) = res.code := by
  have hr := res.code.isLt
  have hs := seq.isLt
  apply BitVec.eq_of_toNat_eq
  rw [rspRes, BitVec.extractLsb'_toNat, doneWord_toNat, Nat.shiftRight_eq_div_pow]
  omega

end Machine

end Sys2Proof
end

