-- ==== Sys2Proof/Tests/Slice0.lean ====
section
/-! SUPPORT. The model's own tests: words written out from the encoding tables, the worked vectors of
95_test_vectors.md, and a state for the hypotheses of each statement. -/

namespace Sys2Proof.Tests

open Sys2Proof.Machine

/-! ### Small states in configuration T -/

/-- A store whose first bytes are these. -/
def store (bs : List Byte) : Memory := bs.zipIdx.map fun p => (p.2, p.1)

/-- Configuration T with these first bytes and cursors. -/
def stateT (bs : List Byte) (rd wr : Nat) : State :=
  { State.resetFor Config.testT with mem := store bs, rd := rd, wr := wr }

/-- What a test looks at: `rd`, `wr`, `fcause`, the last response, the first `k` bytes. -/
def see (k : Nat) : Result → Option (Nat × Nat × Nat × Word × List Byte)
  | .next t => some (t.rd, t.wr, t.fcause.toNat, t.lastResponse, Memory.bytesFrom t.draw t.mem 0 k)
  | .fault _ => none
  | .refused _ => none

/-- The next state of an answer that has one. -/
def nextOf : Result → Option State
  | .next t => some t
  | .fault _ => none
  | .refused _ => none

/-! ### Well-formedness: the ill-formed term of each check -/

theorem test_wf_refuses_peek : (Instr.peek 65536).wellFormed = false := by decide
theorem test_wf_refuses_poke : (Instr.poke 65536 0).wellFormed = false := by decide
theorem test_wf_refuses_seek : (Instr.seek 65536).wellFormed = false := by decide
theorem test_wf_refuses_consume : (Instr.consume 65536).wellFormed = false := by decide
theorem test_wf_accepts_largest : (Instr.seek 65535).WellFormed := by decide

/-! ### Decoding: OP, B, N written out from 30_encoding.md R67, R69 -/

theorem test_decode_lenr : decode 0b00000001_00000000_0000000000000000#32 = .ok .lenr := by rfl
theorem test_decode_lenw : decode 0b00000010_00000000_0000000000000000#32 = .ok .lenw := by rfl
theorem test_decode_rdptr : decode 0b00000011_00000000_0000000000000000#32 = .ok .rdptr := by rfl
theorem test_decode_wrptr : decode 0b00000100_00000000_0000000000000000#32 = .ok .wrptr := by rfl
theorem test_decode_peek : decode 0b00000101_00000000_1000000000000001#32 = .ok (.peek 32769) := by rfl
theorem test_decode_poke : decode 0b00000110_11001000_0000000000000001#32 = .ok (.poke 1 0xC8) := by rfl
theorem test_decode_seek : decode 0b00000111_00000000_1111111111111111#32 = .ok (.seek 65535) := by rfl
theorem test_decode_put : decode 0b00001000_10101010_0000000000000000#32 = .ok (.put 0xAA) := by rfl
theorem test_decode_consume : decode 0b00001001_00000000_0000000000000110#32 = .ok (.consume 6) := by rfl
theorem test_decode_compact : decode 0b00001010_00000000_0000000000000000#32 = .ok .compact := by rfl
theorem test_decode_rewind : decode 0b00001011_00000000_0000000000000000#32 = .ok .rewind := by rfl
theorem test_decode_scan : decode 0b00010000_00000000_0000000000000000#32 = .ok .scan := by rfl
theorem test_decode_sync : decode 0b00010001_00000000_0000000000000000#32 = .ok .sync := by rfl
theorem test_decode_stat : decode 0b00011111_00000000_0000000000000000#32 = .ok .stat := by rfl

/-- F1, F4, F6: reserved OP values. -/
theorem test_decode_reserved :
    decode 0x00000000#32 = .error .reservedOp ∧ decode 0x0C000000#32 = .error .reservedOp ∧
    decode 0xFFFFFFFF#32 = .error .reservedOp := ⟨rfl, rfl, rfl⟩

/-- F2, F3, F5, F7: an unused field that is not zero. -/
theorem test_decode_unused_field :
    decode 0x01000001#32 = .error .unusedFieldNonzero ∧ decode 0x08000001#32 = .error .unusedFieldNonzero ∧
    decode 0x10010000#32 = .error .unusedFieldNonzero ∧ decode 0x05FF0000#32 = .error .unusedFieldNonzero :=
  ⟨rfl, rfl, rfl, rfl⟩

theorem test_table_word : decodeTableWord 32 0x06C80001 = some (.poke 1 0xC8) := by rfl

/-! ### The marker: M1, M2, M3 of 95_test_vectors.md -/

theorem test_marker_values : ([0x0801, 0x3801, 0xC801, 0xF801] : List Half).all isMarker = true := by decide

theorem test_marker_redundancy_fails :
    ([0x1801, 0x2801, 0x4801, 0x5801, 0x6801, 0x7801, 0x8801, 0x9801, 0xA801, 0xB801, 0xD801, 0xE801] : List Half).any
      isMarker = false := by decide

theorem test_marker_sync_wrong :
    ([0x0800, 0x0001, 0x0811, 0x0901, 0x0000, 0xF800, 0xFFFF, 0x0108] : List Half).any isMarker = false := by decide

theorem test_seq_values : ([0x0801, 0x3801, 0xC801, 0xF801] : List Half).map seqOf = [0, 1, 2, 3] := by decide

/-! ### The scan: X7, X8, X9, X11, X14 and X1 of 95_test_vectors.md -/

theorem test_scan_x1 : scan [] = ⟨false, 0, 0⟩ := by decide
theorem test_scan_x7 : scan [0x01, 0x18, 0x01, 0x08] = ⟨true, 2, 0⟩ := by decide
theorem test_scan_x8 : scan [0x00, 0x01, 0xC8, 0x55, 0x01, 0xF8, 0x00] = ⟨true, 6, 2⟩ := by decide
theorem test_scan_x9 : scan [0x01, 0x01, 0x08] = ⟨true, 2, 0⟩ := by decide
theorem test_scan_x11 : scan [0xAA, 0xBB, 0x01] = ⟨false, 1, 0⟩ := by decide
theorem test_scan_x14 : scan [0x01, 0x78] = ⟨false, 1, 0⟩ := by decide
theorem test_scan_x15 : scan [0x01, 0xF8, 0x01, 0x08] = ⟨true, 4, 3⟩ := by decide

/-! ### The commands, one step each -/

/-- The state of the examples of LENR, LENW, RDPTR, WRPTR in 40_buffer.md: `rd = 2, wr = 11`. -/
def sample : State := stateT [0x00, 0xFF, 0x01, 0x38, 0x11, 0x22, 0x33, 0x00, 0x01, 0xC8, 0x44] 2 11

theorem test_lenr : see 0 (exec .lenr sample) = some (2, 11, 0, 0x00000009#32, []) := by decide
theorem test_lenw : see 0 (exec .lenw sample) = some (2, 11, 0, 0x00000005#32, []) := by decide
/-- B1. -/
theorem test_lenw_after_reset : see 0 (exec .lenw (stateT [] 0 0)) = some (0, 0, 0, 0x00000010#32, []) := by decide
theorem test_rdptr : see 0 (exec .rdptr sample) = some (2, 11, 0, 0x00000002#32, []) := by decide
theorem test_wrptr : see 0 (exec .wrptr sample) = some (2, 11, 0, 0x0000000B#32, []) := by decide
/-- 40_buffer.md R104, the example. -/
theorem test_peek : see 0 (exec (.peek 1) (stateT [0, 0, 0x01, 0x38, 0x11] 2 5)) = some (2, 5, 0, 0x00000038#32, []) := by
  decide
/-- B6. -/
theorem test_peek_refused :
    see 3 (exec (.peek 3) (stateT [0xAA, 0xBB, 0xCC] 0 3)) = some (0, 3, 6, 0xE0000000#32, [0xAA, 0xBB, 0xCC]) := by decide
/-- B18. -/
theorem test_poke :
    see 5 (exec (.poke 1 0xC8) (stateT [1, 2, 3, 4, 5] 0 3)) = some (0, 3, 0, 0x00000000#32, [1, 2, 3, 4, 0xC8]) := by
  decide
/-- B19. -/
theorem test_poke_refused : see 1 (exec (.poke 1 0) (stateT [7] 0 15)) = some (0, 15, 4, 0xC0000000#32, [7]) := by decide
/-- B14. -/
theorem test_seek_fills : see 0 (exec (.seek 13) (stateT [] 0 3)) = some (0, 16, 0, 0x00000000#32, []) := by decide
/-- B16: no truncation of N. -/
theorem test_seek_refused : see 0 (exec (.seek 65535) (stateT [] 0 3)) = some (0, 3, 2, 0xA0000000#32, []) := by decide
/-- B3. -/
theorem test_put : see 1 (exec (.put 0xAA) (stateT [] 0 0)) = some (0, 1, 0, 0x00000000#32, [0xAA]) := by decide
/-- B17. -/
theorem test_put_refused : see 1 (exec (.put 0) (stateT [7] 0 16)) = some (0, 16, 3, 0xB0000000#32, [7]) := by decide
/-- B21. -/
theorem test_consume : see 0 (exec (.consume 3) (stateT [] 8 11)) = some (11, 11, 0, 0x00000000#32, []) := by decide
/-- B20. -/
theorem test_consume_refused : see 0 (exec (.consume 4) (stateT [] 8 11)) = some (8, 11, 5, 0xD0000000#32, []) := by decide
/-- B10. -/
theorem test_compact :
    see 5 (exec .compact (stateT [0xAA, 0xBB, 0xCC, 0xDD, 0xEE] 3 5)) =
      some (0, 2, 0, 0x00000000#32, [0xDD, 0xEE, 0xCC, 0xDD, 0xEE]) := by decide
/-- P7, row 2: source and destination overlap. -/
theorem test_compact_overlap :
    see 8 (exec .compact (stateT [0x77, 0x01, 0xF8, 0x09, 0x09, 0x09, 0x00, 0x01] 1 8)) =
      some (0, 7, 0, 0x00000000#32, [0x01, 0xF8, 0x09, 0x09, 0x09, 0x00, 0x01, 0x01]) := by decide
/-- B9. -/
theorem test_rewind : see 3 (exec .rewind sample) = some (0, 0, 0, 0x00000000#32, [0x00, 0xFF, 0x01]) := by decide
/-- 41_scanner.md R134, the example. -/
theorem test_scan_found :
    see 4 (exec .scan (stateT [0xFF, 0x01, 0x38, 0xAA] 0 4)) =
      some (0, 4, 0, 0x02010003#32, [0xFF, 0x01, 0x38, 0xAA]) := by decide
/-- 41_scanner.md R134, the second example. -/
theorem test_scan_none : see 0 (exec .scan (stateT [0, 0, 0] 0 3)) = some (0, 3, 0, 0x00000001#32, []) := by decide
/-- 42_sync.md R150, the example: FRAME. -/
theorem test_sync_frame :
    see 0 (exec .sync (stateT [0x00, 0xFF, 0x01, 0x38, 0x11, 0x22, 0x33, 0x00, 0x01, 0xC8, 0x44] 0 11)) =
      some (2, 11, 0, 0x02010009#32, []) := by decide
/-- Y3: PARTIAL, with the stale bytes it leaves. -/
theorem test_sync_partial :
    see 9 (exec .sync (stateT [9, 9, 9, 9, 9, 0x01, 0x38, 7, 7] 0 9)) =
      some (0, 4, 0, 0x01010004#32, [0x01, 0x38, 7, 7, 9, 0x01, 0x38, 7, 7]) := by decide
/-- 43_system.md R170, the example: after a refused PEEK. -/
theorem test_stat : see 0 (exec .stat { stateT [] 0 0 with fcause := 6 }) = some (0, 0, 6, 0x00000006#32, []) := by decide
/-- 60_exceptions.md R182: the first cause sticks, the response has its own (P4, row 4). -/
theorem test_sticky : see 0 (exec (.put 0) { stateT [] 0 16 with fcause := 2 }) = some (0, 16, 2, 0xB0000000#32, []) := by
  decide

/-! ### The step -/

/-- The first command after reset: PUT 0xAA (P1, row 2, in the reference build). -/
theorem test_step_first_command :
    see 1 (step (State.reset.withFetchWord 32 0x08AA0000)) = some (0, 1, 0, 0x00000000#32, [0xAA]) := by decide
/-- F1. -/
theorem test_step_illegal_word :
    see 0 (step (State.reset.withFetchWord 32 0x00000000)) = some (0, 0, 1, 0x90000000#32, []) := by decide
/-- 43_system.md R171: the reset input. -/
theorem test_step_reset :
    see 0 (step { sample with fcause := 5, input := [.reset none], output := [7] }) = some (0, 0, 0, 0x00000007#32, []) := by
  decide

/-! ### States for the hypotheses of the statements -/

/-- `sample` meets the invariant. -/
theorem sample_inv : sample.Inv := ⟨by decide, by decide, by decide, by decide, by decide, by decide⟩

/-- `sample` with one command word offered. -/
def offered (w : Word) : State := { sample with input := [.command w] }

theorem offered_inv (w : Word) : (offered w).Inv :=
  ⟨sample_inv.legal, sample_inv.rd_le_wr, sample_inv.wr_le_capacity, sample_inv.fcause_ne_seven, sample_inv.mem_wf,
    sample_inv.mem_inside⟩

theorem next_of_isSome {r : Result} (h : (nextOf r).isSome = true) : ∃ t, r = .next t := by
  cases r <;> simp_all [nextOf]

/-- ResetMeetsInvariant. -/
theorem witness_legal_builds : legalBuild Config.testT ∧ legalBuild Config.reference ∧
    legalBuild { payloadSize := 65532, capacity := 65535 } ∧ legalBuild { payloadSize := 0, capacity := 3 } := by decide

/-- CursorsStayOrderedInTheStore, StepKeepsInvariant, NoStepFaults, EveryCommandIsAnsweredOnce. -/
theorem witness_step_from_invariant :
    (offered 0x11000000).Inv ∧ (offered 0x11000000).input = [.command 0x11000000#32] ∧
      ∃ t, step (offered 0x11000000) = .next t := ⟨offered_inv _, rfl, next_of_isSome (by decide)⟩

/-- RstInputGivesResetState and the third clause of FirstCauseSticksUntilReset. -/
theorem witness_reset_input :
    ∃ s t : State, s.input = [.reset (some 0x0A000000#32)] ∧ s.fcause = 5 ∧ step s = .next t :=
  ⟨{ sample with fcause := 5, input := [.reset (some 0x0A000000#32)] }, _, rfl, rfl, rfl⟩

/-- StepRunsDecodedCommand. -/
theorem witness_decoded_command :
    (offered 0x09000009).input = [.command 0x09000009#32] ∧ decode 0x09000009#32 = .ok (.consume 9) := ⟨rfl, rfl⟩

/-- StepRefusesIllegalWord, ReservedOpcodeIsIllegal and UnusedFieldMustBeZero, at values next to a legal one. -/
theorem witness_illegal_words :
    decode 0x0C000000#32 = .error .reservedOp ∧ reservedOp (opField 0x0C000000#32) = true ∧
    decode 0x01000001#32 = .error .unusedFieldNonzero ∧ opField 0x01000001#32 = opField 0x01000000#32 ∧
    0x01000001#32 &&& 0xFFFFFFFF#32 ≠ 0x01000000#32 := ⟨rfl, rfl, rfl, rfl, by decide⟩

/-- WordSelectsCommandByMaskAndMatch and UnusedFieldMustBeZero: a selected word. -/
theorem witness_selected_word :
    (opcodeMap[5]?.map fun row => decide (0x06C80001#32 &&& row.2.1 = row.1)) = some true := by decide

/-- StepWithNothingOfferedWaits. -/
theorem witness_nothing_offered : sample.input = [] := rfl

/-- RunPerformsWholeCommandList and StatAnswersFirstRefusalOfTheRun: a legal and a refused command, after an earlier
response. -/
theorem witness_command_list :
    ∃ s : State, s.Inv ∧ OnlyCommands s ∧ s.input.length = 2 ∧ s.fcause = 0 ∧ s.output = [7] ∧
      ∃ t, Sys2Proof.core.run 2 s = .next t :=
  ⟨{ sample with input := [.command 0x09000009#32, .command 0x09000001#32], output := [7] },
    ⟨sample_inv.legal, sample_inv.rd_le_wr, sample_inv.wr_le_capacity, sample_inv.fcause_ne_seven, sample_inv.mem_wf,
      sample_inv.mem_inside⟩, by simp [OnlyCommands], rfl, rfl, rfl, next_of_isSome (by decide)⟩

/-- RefusedCommandChangesNothingElse: a refused command and an illegal word. -/
theorem witness_refused :
    (∃ t, exec (.peek 9) sample = .next t ∧ rspRefused t.lastResponse = true) ∧
    ∃ t, perform 0x00000000 sample = .next t ∧ rspRefused t.lastResponse = true :=
  ⟨⟨_, rfl, by decide⟩, ⟨_, rfl, by decide⟩⟩

/-- FirstCauseSticksUntilReset, second clause: a refused command with a cause already latched. -/
theorem witness_sticky :
    ∃ s t : State, NoResetNext s ∧ s.fcause ≠ 0 ∧ step s = .next t :=
  ⟨{ offered 0x0500000A with fcause := 2 }, _, by intro a; simp [offered], by decide, rfl⟩

/-- FaultCodeIsFirstRefusalSinceReset, first clause: a second refusal, after a first one, after an earlier response; the
second clause: an assertion of `rst` with a fault latched. -/
theorem witness_fault_logged :
    (∃ s t : State, s.FaultLoggedSince [7] ∧ NoResetNext s ∧ s.fcause ≠ 0 ∧ step s = .next t ∧ t.fcause = 2) ∧
    ∃ s t : State, s.input = [.reset none] ∧ s.output = [7, refusedWord .seekOverrun] ∧ s.fcause = 2 ∧ step s = .next t :=
  ⟨⟨{ offered 0x0500000A with fcause := 2, output := [7, refusedWord .seekOverrun] }, _,
      ⟨[refusedWord .seekOverrun], rfl, rfl, by simp; decide⟩, by intro a; simp [offered], by decide, rfl, by decide⟩,
    ⟨{ sample with fcause := 2, input := [.reset none], output := [7, refusedWord .seekOverrun] }, _, rfl, rfl, rfl, rfl⟩⟩

/-- DecodeOfEncodeIsIdentity and EncodeOfDecodeIsIdentity at the largest operand. -/
theorem witness_encoding :
    (Instr.poke 65535 0xFF).WellFormed ∧ decode 0x06FFFFFF#32 = .ok (.poke 65535 0xFF) := ⟨by decide, rfl⟩

/-- ResponseWordFieldsReadBack: the largest value. -/
theorem witness_value_fits : 65535 < 65536 := by decide

/-- MarkersAreExactlyFourValues, MarkerOfAndSeqOfAreInverse. -/
theorem witness_marker : isMarker 0xC801#16 = true := by decide

/-- ScanFindsTheEarliestMarker: a marker at the last possible position, and one at the first. -/
theorem witness_scan_found :
    (scan [0xAA, 0x01, 0x08]).found = true ∧ (scan [0x01, 0x08]).found = true := by decide

/-- ScanWithoutMarkerKeepsAtMostOneByte, DroppingScannedBytesLosesNoMarker. -/
theorem witness_scan_not_found : (scan [0xAA, 0xBB, 0x01]).found = false ∧ (scan []).found = false := by decide

/-- LenrAnswersUnreadCount, LenwAnswersFreeCount, RdptrAnswersReadCursor, WrptrAnswersWriteCursor: the clause on VAL. -/
theorem witness_queries : sample.Inv ∧ sample.wr - sample.rd = 9 := ⟨sample_inv, by decide⟩

/-- PeekAnswersUnreadByteOrIsRefused: the last unread byte, and one past it. -/
theorem witness_peek : 8 < sample.lenr ∧ sample.wr ≤ sample.build.capacity ∧ sample.lenr ≤ 9 := by decide

/-- PokeWritesFreeByteOrIsRefused: the last free byte, and one past it. -/
theorem witness_poke : 4 < sample.lenw ∧ sample.lenw ≤ 5 := by decide

/-- SeekAdvancesWriteCursorOrIsRefused: exactly what is free, and one more. -/
theorem witness_seek : 5 ≤ sample.lenw ∧ sample.rd ≤ sample.wr ∧ sample.lenw < 6 := by decide

/-- PutAppendsOneByteOrIsRefused: one byte free, and none. -/
theorem witness_put : 1 ≤ (stateT [] 0 15).lenw ∧ (stateT [] 0 16).lenw = 0 := by decide

/-- ConsumeAdvancesReadCursorOrIsRefused: exactly what is unread, and one more. -/
theorem witness_consume : 9 ≤ sample.lenr ∧ sample.lenr < 10 := by decide

/-- CompactMovesUnreadRegionToStart: a full store that overlaps itself, and `rd = 0`. -/
theorem witness_compact :
    (stateT [] 1 16).wr ≤ (stateT [] 1 16).build.capacity ∧ (stateT [] 1 16).lenr = 15 ∧ (stateT [] 0 3).rd = 0 := by
  decide

/-- ScanCommandReportsTheUnreadRegion: both clauses. -/
theorem witness_scan_command :
    sample.wr ≤ sample.build.capacity ∧ (scan sample.unread).found = true ∧
    (scan (stateT [0, 0, 1] 0 3).unread).found = false := by decide

/-- SyncHasThreeOutcomes: NOSYNC; PARTIAL one byte short of a frame; FRAME of exactly a frame. -/
theorem witness_sync :
    (scan (stateT [0, 0, 1] 0 3).unread).found = false ∧
    (scan (stateT [5, 0x01, 0x08, 7, 7, 7] 0 6).unread).found = true ∧
    (scan (stateT [5, 0x01, 0x08, 7, 7, 7] 0 6).unread).rem + 1 = (stateT [] 0 6).frameSize ∧
    (scan (stateT [0x01, 0x08, 7, 7, 7, 0] 0 6).unread).found = true ∧
    (stateT [] 0 6).frameSize = (scan (stateT [0x01, 0x08, 7, 7, 7, 0] 0 6).unread).rem := by decide

/-- SyncIsScanConsumeCompact, SyncRepeatedAnswersTheSame, ReportedFrameIsWholeAndPartialFits: FRAME, then PARTIAL. -/
theorem witness_sync_runs :
    sample.Inv ∧ (∃ t, exec .sync sample = .next t ∧ answeredFrame t = true) ∧
    ∃ t, exec .sync (stateT [0x01, 0x38, 7, 7] 0 4) = .next t ∧
      rspRes t.lastResponse = ResultClass.partialFrame.code :=
  ⟨sample_inv, ⟨_, rfl, by decide⟩, ⟨_, rfl, by decide⟩⟩

/-- The PARTIAL state of `witness_sync_runs` meets the invariant too. -/
theorem witness_partial_inv : (stateT [0x01, 0x38, 7, 7] 0 4).Inv :=
  ⟨by decide, by decide, by decide, by decide, by decide, by decide⟩

/-- PartialFrameIsRetained: one byte short of a frame, and only the marker. -/
theorem witness_partial_frame :
    markerAt (stateT [0, 0x01, 0x08, 7, 7, 7] 1 6).unread 0 = true ∧
    (stateT [0, 0x01, 0x08, 7, 7, 7] 1 6).lenr < (stateT [0, 0x01, 0x08, 7, 7, 7] 1 6).frameSize ∧
    markerAt (stateT [0x01, 0x08] 0 2).unread 0 = true ∧
    (stateT [0x01, 0x08] 0 2).lenr < (stateT [0x01, 0x08] 0 2).frameSize := by decide

/-- AlignedFrameIsReportedWhateverItHolds: a payload that holds a marker value and a padding byte that is not zero (Y8). -/
theorem witness_aligned_frame :
    (stateT [0x01, 0x08, 0x01, 0x38, 0x07, 0x55, 0xEE, 0xEE] 0 8).unread =
      frameBytes { seq := 0, payload := [0x01, 0x38, 0x07], padding := 0x55 } ++ [0xEE, 0xEE] := by decide

/-- StoreChangesOnlyWhereWritten, EveryCommandLeavesTheBuildAlone, QueriesAreIdempotent. -/
theorem witness_commands_answer :
    (∃ t, exec (.poke 4 1) sample = .next t) ∧ (∃ t, exec .compact sample = .next t) ∧
    ∃ t u, exec (.peek 8) sample = .next t ∧ exec (.peek 8) t = .next u ∧ rspRefused t.lastResponse = false :=
  ⟨next_of_isSome (by decide), next_of_isSome (by decide), ⟨_, _, rfl, rfl, by decide⟩⟩

/-- HiddenBytesDoNotShow: two stores that differ at index 0, which is consumed, and at index 11, which is free. -/
theorem witness_hidden_bytes :
    SameView sample { sample with mem := store [0x55, 0x55, 0x01, 0x38, 0x11, 0x22, 0x33, 0x00, 0x01, 0xC8, 0x44, 0x66] } ∧
    ∃ t, exec .sync sample = .next t := ⟨⟨rfl, rfl, rfl, rfl, by decide⟩, next_of_isSome (by decide)⟩

/-- UnreadPlusFreeIsCapacityWhenReadCursorIsZero: a SYNC that stops. -/
theorem witness_unread_plus_free :
    sample.rd ≤ sample.wr ∧ sample.wr ≤ sample.build.capacity ∧
    ∃ t, exec .sync (stateT [9, 9, 1] 1 3) = .next t ∧ answeredFrame t = false :=
  ⟨by decide, by decide, ⟨_, rfl, by decide⟩⟩

/-- UnreadPlusFreeIsCapacityWhenReadCursorIsZero, fourth clause: a SYNC that answers FRAME and drops nothing. -/
theorem witness_read_cursor_stays :
    (stateT [0x01, 0x08, 7, 7, 7, 0] 0 6).lenr + (stateT [0x01, 0x08, 7, 7, 7, 0] 0 6).lenw = 16 ∧
    (∀ n, decode 0x11000000#32 ≠ .ok (.consume n)) ∧
    ∃ t, perform 0x11000000#32 (stateT [0x01, 0x08, 7, 7, 7, 0] 0 6) = .next t ∧ answeredFrame t = true ∧ t.lenr = 6 :=
  ⟨by decide, fun n h => (by cases h), ⟨_, rfl, by decide, by decide⟩⟩

/-- CursorsMoveOnlyByTheirCommands: both cursors moved at once. -/
theorem witness_cursors_move : ∃ t, exec .compact sample = .next t ∧ t.rd ≠ sample.rd ∧ t.wr ≠ sample.wr :=
  ⟨_, rfl, by decide, by decide⟩

/-- DrainReadsAndDropsTheFirstBytes: every unread byte; one byte. -/
theorem witness_drain : 9 ≤ sample.lenr ∧ 1 ≤ sample.lenr ∧ sample.wr ≤ sample.build.capacity := by decide

/-- CursorsFitTheirWidth: the invariant holds of `sample`, whose C = 16 takes five bits. -/
theorem witness_cursor_width : sample.Inv ∧ cursorWidth sample.build = 5 := ⟨sample_inv, by decide +kernel⟩

/-- AppendAndAppendRawAgree: exactly what fits. -/
theorem witness_append : ([1, 2, 3, 4, 5] : List Byte).length ≤ sample.lenw := by decide

/-- AppendAndAppendRawDifferUnderOverrun: one byte more than fits. -/
theorem witness_append_overrun :
    sample.wr ≤ sample.build.capacity ∧ sample.lenw < ([1, 2, 3, 4, 5, 6] : List Byte).length ∧ sample.fcause = 0 := by
  decide

/-- DecodePassEndsCompacted, DecodePassTakesAtMostLenrOverFrameSizeFrames. -/
theorem witness_pass : sample.Inv ∧ sample.lenr / sample.frameSize ≤ 1 := ⟨sample_inv, by decide⟩

/-- Two whole frames back to back. -/
def stream : State := stateT [0x01, 0x08, 1, 2, 3, 0, 0x01, 0x38, 4, 5, 6, 0] 0 12

/-- AlignedStreamDecodesFrameByFrame. -/
theorem witness_stream :
    stream.Inv ∧ stream.unread = [Frame.mk 0 [1, 2, 3] 0, Frame.mk 1 [4, 5, 6] 0].flatMap frameBytes ∧
    ∀ f ∈ [Frame.mk 0 [1, 2, 3] 0, Frame.mk 1 [4, 5, 6] 0], f.payload.length = stream.build.payloadSize :=
  ⟨⟨by decide, by decide, by decide, by decide, by decide, by decide⟩, by decide, by decide⟩

end Sys2Proof.Tests
end

/-! SUPPORT. 00_scope.md: the step as the decoded command (R12) and the width of the cursors (R9). -/

namespace Sys2Proof.Machine

/-! ### The step on a command word -/

/-- A command word on the input is taken from it and performed (10_state.md R30). -/
theorem step_of_input_command {s : State} {w : Word} {rest : List HostEvent} (h : s.input = .command w :: rest) :
    step s = perform w (s.setInput rest) := by
  simp only [step, h, takeEvent]

theorem perform_of_decode_ok {w : Word} {i : Instr} (h : decode w = .ok i) (s : State) : perform w s = exec i s := by
  simp only [perform, h]

/-- Settles O6: the word is taken from the input, and performing it is executing what it decodes to. -/
theorem stepRunsDecodedCommand : Obligations.StepRunsDecodedCommand := by
  intro s w rest i hinput hdecode
  calc step s = perform w (s.setInput rest) := step_of_input_command hinput
    _ = exec i (s.setInput rest) := perform_of_decode_ok hdecode _

/-! ### The width of a cursor -/

theorem legalBuild.capacity_pos {b : Config.Build} (h : legalBuild b) : 0 < b.capacity := by
  obtain ⟨hframe, -⟩ := h
  unfold frameSizeOf at hframe
  omega

/-- AW is characterised by what it bounds: `k` bits hold C exactly when there are at least AW of them (00_scope.md R9). -/
theorem cursorWidth_le_iff {b : Config.Build} (h : legalBuild b) (k : Nat) :
    cursorWidth b ≤ k ↔ b.capacity < 2 ^ k :=
  Nat.log2_lt h.capacity_pos.ne'

theorem capacity_lt_two_pow_cursorWidth {b : Config.Build} (h : legalBuild b) : b.capacity < 2 ^ cursorWidth b :=
  (cursorWidth_le_iff h _).mp le_rfl

theorem cursorWidth_le_sixteen {b : Config.Build} (h : legalBuild b) : cursorWidth b ≤ 16 := by
  have hcap : b.capacity ≤ 65535 := h.2
  exact (cursorWidth_le_iff h 16).mpr (by omega)

/-! ### Cursor moves that are in range -/

theorem execAll_cons_of_next {i : Instr} {rest : List Instr} {s u : State} (h : exec i s = .next u) :
    execAll (i :: rest) s = execAll rest u := by
  rw [execAll, h, andThen_next]

/-- SEEK N within the free space advances the write cursor (40_buffer.md R106). -/
theorem exec_seek_of_inRange {s : State} {n : Nat} (h : s.seekInRange n) :
    exec (.seek n) s = .next ((s.setWr (s.wr + n)).answer (doneWord .nothing 0 0)) :=
  if_pos h

/-- CONSUME N within the unread region advances the read cursor (40_buffer.md R108). -/
theorem exec_consume_of_inRange {s : State} {n : Nat} (h : s.consumeInRange n) :
    exec (.consume n) s = .next ((s.setRd (s.rd + n)).answer (doneWord .nothing 0 0)) :=
  if_pos h

/-- From an empty block, SEEK v then CONSUME v puts both cursors at `v`, for every `v` up to C. -/
theorem seek_consume_reaches {s : State} {v : Nat} (hrd : s.rd = 0) (hwr : s.wr = 0) (hv : v ≤ s.build.capacity) :
    ∃ t, execAll [.seek v, .consume v] s = .next t ∧ t.rd = v ∧ t.wr = v := by
  have hseek : s.seekInRange v := by simpa [State.seekInRange, State.lenw, hwr] using hv
  have hconsume : ((s.setWr (s.wr + v)).answer (doneWord .nothing 0 0)).consumeInRange v := by
    simp [State.consumeInRange, State.lenr, hrd]
  refine ⟨_, (execAll_cons_of_next (exec_seek_of_inRange hseek)).trans
    (execAll_cons_of_next (exec_consume_of_inRange hconsume)), ?_, ?_⟩
  · simp [hrd]
  · simp [hwr]

/-- Settles O52: both cursors are at most C, which AW bits hold and no fewer; SEEK v and CONSUME v reach every `v ≤ C`. -/
theorem cursorsFitTheirWidth : Obligations.CursorsFitTheirWidth := by
  constructor
  · intro s hinv
    have hcap := capacity_lt_two_pow_cursorWidth hinv.legal
    have hwr : s.wr < 2 ^ cursorWidth s.build := hinv.wr_le_capacity.trans_lt hcap
    exact ⟨hinv.rd_le_wr.trans_lt hwr, hwr, cursorWidth_le_sixteen hinv.legal, hcap,
      fun k => (cursorWidth_le_iff hinv.legal k).mpr⟩
  · intro b v _ hv
    exact seek_consume_reaches rfl rfl hv

end Sys2Proof.Machine

/-! SUPPORT. What a command can do, said once: it is refused, or it is carried out and answered (60_exceptions.md R181). -/

namespace Sys2Proof.Machine

/-! ### The parts of a command's effect -/

/-- The cause a command is refused with, none where the block carries it out (60_exceptions.md R180). -/
def refusalOf (s : State) : Instr → Option Cause
  | .peek n => if s.peekInRange n then none else some .peekRange
  | .poke n _ => if s.pokeInRange n then none else some .pokeRange
  | .seek n => if s.seekInRange n then none else some .seekOverrun
  | .put _ => if s.lenw = 0 then some .putFull else none
  | .consume n => if s.consumeInRange n then none else some .consumeOverrun
  | .lenr | .lenw | .rdptr | .wrptr | .compact | .rewind | .scan | .sync | .stat => none

/-- The unread region is empty or inside the store (10_state.md R21). -/
def State.UnreadInside (s : State) : Prop := s.lenr = 0 ∨ s.rd + s.lenr ≤ s.build.capacity

/-- Every index that a command reads is in the store (20_memory.md R47). -/
def ReadsInside (s : State) : Instr → Prop
  | .peek n => s.peekIndex n < s.build.capacity
  | .compact | .scan | .sync => s.UnreadInside
  | .lenr | .lenw | .rdptr | .wrptr | .poke _ _ | .seek _ | .put _ | .consume _ | .rewind | .stat => True

/-- The state COMPACT-steps leave (40_buffer.md R109). -/
def State.compacted (s : State) : State :=
  ((s.setMem (Memory.copyDown s.draw s.mem s.rd s.lenr)).setWr s.lenr).setRd 0

/-- SYNC's step 2: the bytes before the marker, or all but the last one, leave the unread region (42_sync.md R150). -/
def State.dropScanned (s : State) : State := s.setRd (s.rd + (s.lenr - (scan s.unread).rem))

/-- RES of a SYNC in this state (42_sync.md R150). -/
def State.syncOutcome (s : State) : ResultClass := syncClass (scan s.unread) s.frameSize

/-- What SYNC leaves: compacted unless it answers FRAME (42_sync.md R150). -/
def State.synced (s : State) : State :=
  match s.syncOutcome with
  | .found => s.dropScanned
  | .nothing | .partialFrame => s.dropScanned.compacted

/-- SEQ of a SYNC in this state (42_sync.md R150). -/
def State.syncSeq (s : State) : BitVec 2 :=
  match s.syncOutcome with
  | .nothing => 0
  | .partialFrame | .found => (scan s.unread).seq

/-- The store and the cursors once a command is carried out; the response is `answerOf`. -/
def carriedOut (s : State) : Instr → State
  | .poke n b => s.setMem (Memory.write s.mem (s.pokeIndex n) b)
  | .seek n => s.setWr (s.wr + n)
  | .put b => (s.setMem (Memory.write s.mem (s.pokeIndex 0) b)).setWr (s.wr + 1)
  | .consume n => s.setRd (s.rd + n)
  | .compact => s.compacted
  | .rewind => (s.setRd 0).setWr 0
  | .sync => s.synced
  | .lenr | .lenw | .rdptr | .wrptr | .peek _ | .scan | .stat => s

/-- The response of a command that is carried out (30_encoding.md R70). -/
def answerOf (s : State) : Instr → Word
  | .lenr => doneWord .nothing 0 s.lenr
  | .lenw => doneWord .nothing 0 s.lenw
  | .rdptr => doneWord .nothing 0 s.rd
  | .wrptr => doneWord .nothing 0 s.wr
  | .peek n => doneWord .nothing 0 (s.readByte (s.peekIndex n)).toNat
  | .scan => doneWord (scanClass (scan s.unread)) (scan s.unread).seq (scan s.unread).rem
  | .sync => doneWord s.syncOutcome s.syncSeq (scan s.unread).rem
  | .stat => doneWord .nothing 0 s.fcause.toNat
  | .poke _ _ | .seek _ | .put _ | .consume _ | .compact | .rewind => doneWord .nothing 0 0

/-- What a command can do to a state. -/
inductive Effect (s : State) (i : Instr) : State → Prop where
  | refused (c : Cause) (hc : refusalOf s i = some c) : Effect s i (s.afterFault c)
  | done (hnone : refusalOf s i = none) (hin : ReadsInside s i) : Effect s i ((carriedOut s i).answer (answerOf s i))

/-! ### COMPACT-steps and SYNC -/

theorem compactSteps_of_unreadInside {s : State} (h : s.UnreadInside) : s.compactSteps = .ok s.compacted :=
  compactSteps_eq_ok.mpr ⟨h, rfl⟩

theorem readRange_of_unreadInside {s : State} (h : s.UnreadInside) : s.readRange s.rd s.lenr = .ok s.unread :=
  readRange_eq_ok.mpr ⟨h, rfl⟩

theorem scan_unread_rem_le (s : State) : (scan s.unread).rem ≤ s.lenr := by
  simpa using scan_rem_le s.unread

/-- What SYNC keeps is what the scan left (41_scanner.md R131, R132). -/
theorem dropScanned_lenr (s : State) : s.dropScanned.lenr = (scan s.unread).rem := by
  have h := scan_unread_rem_le s
  simp only [State.dropScanned, State.lenr, State.setRd_rd, State.setRd_wr] at h ⊢
  omega

theorem dropScanned_unreadInside {s : State} (h : s.UnreadInside) : s.dropScanned.UnreadInside := by
  simp only [State.UnreadInside, State.dropScanned, State.lenr, State.setRd_rd, State.setRd_wr, State.setRd_build] at h ⊢
  omega

theorem execSync_of_unreadInside {s : State} (h : s.UnreadInside) :
    execSync s = .next (s.synced.answer (answerOf s .sync)) := by
  have hdrop : (s.setRd (s.rd + (s.lenr - (scan s.unread).rem))).compactSteps = .ok s.dropScanned.compacted :=
    compactSteps_of_unreadInside (dropScanned_unreadInside h)
  rw [execSync, readRange_of_unreadInside h, onOk_ok, syncAfterScan, hdrop]
  unfold answerOf State.synced State.syncSeq State.syncOutcome
  cases syncClass (scan s.unread) s.frameSize <;> rfl

theorem State.synced_of_found {s : State} (h : s.syncOutcome = .found) : s.synced = s.dropScanned := by
  simp only [State.synced, h]

theorem State.synced_of_not_found {s : State} (h : s.syncOutcome ≠ .found) : s.synced = s.dropScanned.compacted := by
  unfold State.synced
  split
  · contradiction
  · rfl
  · rfl

theorem State.synced_eq_or (s : State) : s.synced = s.dropScanned ∨ s.synced = s.dropScanned.compacted := by
  by_cases hfound : s.syncOutcome = .found
  · exact .inl (State.synced_of_found hfound)
  · exact .inr (State.synced_of_not_found hfound)

/-! ### Every command has one of these effects -/

/-- The index a POKE or a PUT in its range writes is in the store. -/
theorem pokeIndex_lt_capacity {s : State} {n : Nat} (h : s.pokeInRange n) : s.pokeIndex n < s.build.capacity := by
  simp only [State.pokeInRange, State.lenw, State.pokeIndex] at h ⊢
  omega

/-- A command out of its range is refused with its cause. -/
theorem exec_of_refused {s : State} {i : Instr} {c : Cause} (h : refusalOf s i = some c) :
    exec i s = .next (s.afterFault c) := by
  cases i with
  | lenr | lenw | rdptr | wrptr | compact | rewind | scan | sync | stat => cases h
  | put b =>
    obtain ⟨hfull, rfl⟩ : s.lenw = 0 ∧ Cause.putFull = c := by simpa [refusalOf] using h
    exact if_pos hfull
  | peek n | poke n b | seek n | consume n =>
    simp only [refusalOf, Option.ite_none_left_eq_some, Option.some.injEq] at h
    obtain ⟨hrange, rfl⟩ := h
    exact if_neg hrange

/-- A command in its range is carried out and answered. -/
theorem exec_of_done {s : State} {i : Instr} (hnone : refusalOf s i = none) (hin : ReadsInside s i) :
    exec i s = .next ((carriedOut s i).answer (answerOf s i)) := by
  cases i with
  | lenr | lenw | rdptr | wrptr | rewind | stat => rfl
  | peek n =>
    have hrange : s.peekInRange n := by simpa [refusalOf] using hnone
    have hread : s.memRead (s.peekIndex n) = .ok (s.readByte (s.peekIndex n)) := memRead_eq_ok.mpr ⟨hin, rfl⟩
    rw [exec, execPeek, if_pos hrange, hread]
    rfl
  | poke n b =>
    have hrange : s.pokeInRange n := by simpa [refusalOf] using hnone
    rw [exec, execPoke, if_pos hrange, memWrite_eq_ok.mpr ⟨pokeIndex_lt_capacity hrange, rfl⟩]
    rfl
  | put b =>
    have hfree : s.lenw ≠ 0 := by simpa [refusalOf] using hnone
    have hindex : s.pokeIndex 0 < s.build.capacity := pokeIndex_lt_capacity (Nat.pos_of_ne_zero hfree)
    rw [exec, execPut, if_neg hfree, memWrite_eq_ok.mpr ⟨hindex, rfl⟩]
    rfl
  | seek n => exact exec_seek_of_inRange (by simpa [refusalOf] using hnone)
  | consume n => exact exec_consume_of_inRange (by simpa [refusalOf] using hnone)
  | compact => rw [exec, execCompact, compactSteps_of_unreadInside hin]; rfl
  | scan => rw [exec, execScan, readRange_of_unreadInside hin]; rfl
  | sync => exact execSync_of_unreadInside hin

/-- A command that answers reads inside the store only (20_memory.md R47). -/
theorem readsInside_of_exec {s t : State} {i : Instr} (hnone : refusalOf s i = none) (h : exec i s = .next t) :
    ReadsInside s i := by
  cases i with
  | lenr | lenw | rdptr | wrptr | poke | seek | put | consume | rewind | stat => trivial
  | peek n =>
    rw [exec, execPeek, if_pos (by simpa [refusalOf] using hnone)] at h
    obtain ⟨b, hread, -⟩ := onOk_eq_next.mp h
    obtain ⟨hin, -⟩ := memRead_eq_ok.mp hread
    exact hin
  | compact =>
    obtain ⟨u, hcompact, -⟩ := onOk_eq_next.mp h
    obtain ⟨hin, -⟩ := compactSteps_eq_ok.mp hcompact
    exact hin
  | scan | sync =>
    obtain ⟨w, hread, -⟩ := onOk_eq_next.mp h
    obtain ⟨hin, -⟩ := readRange_eq_ok.mp hread
    exact hin

/-- A command answers a next state exactly by one of its effects. -/
theorem exec_eq_next_iff {s t : State} {i : Instr} : exec i s = .next t ↔ Effect s i t := by
  constructor
  · intro h
    cases hr : refusalOf s i with
    | some c =>
      obtain rfl := Host.Outcome.next.inj ((exec_of_refused hr).symm.trans h)
      exact .refused c hr
    | none =>
      have hin := readsInside_of_exec hr h
      obtain rfl := Host.Outcome.next.inj ((exec_of_done hr hin).symm.trans h)
      exact .done hr hin
  · rintro (⟨c, hc⟩ | ⟨hnone, hin⟩)
    · exact exec_of_refused hc
    · exact exec_of_done hnone hin

end Sys2Proof.Machine

/-! SUPPORT. 10_state.md: reset, the invariant, what every command leaves unchanged, and what it moves. -/

namespace Sys2Proof.Machine

/-! ### What carrying a command out leaves unchanged -/

section Frame

variable (s : State) (i : Instr)

/-- A command that is carried out touches the store and the cursors only (10_state.md R27). -/
theorem carriedOut_eq_moved :
    carriedOut s i = ((s.setMem (carriedOut s i).mem).setRd (carriedOut s i).rd).setWr (carriedOut s i).wr := by
  cases i with
  | sync =>
    rw [carriedOut]
    rcases s.synced_eq_or with h | h <;> rw [h] <;> rfl
  | _ => rfl

@[simp] theorem carriedOut_build : (carriedOut s i).build = s.build :=
  (congrArg State.build (carriedOut_eq_moved s i) :)

@[simp] theorem carriedOut_fcause : (carriedOut s i).fcause = s.fcause :=
  (congrArg State.fcause (carriedOut_eq_moved s i) :)

@[simp] theorem carriedOut_draw : (carriedOut s i).draw = s.draw :=
  (congrArg State.draw (carriedOut_eq_moved s i) :)

@[simp] theorem carriedOut_input : (carriedOut s i).input = s.input :=
  (congrArg State.input (carriedOut_eq_moved s i) :)

@[simp] theorem carriedOut_output : (carriedOut s i).output = s.output :=
  (congrArg State.output (carriedOut_eq_moved s i) :)

/-- A command that is carried out does not answer REFUSED (30_encoding.md R70). -/
@[simp] theorem rspRefused_answerOf : rspRefused (answerOf s i) = false := by
  cases i <;> exact rspRefused_doneWord ..

end Frame

theorem Effect.sameSurround {s t : State} {i : Instr} (h : Effect s i t) : SameSurround s t := by
  cases h with
  | refused c hc => exact ⟨rfl, rfl, rfl⟩
  | done hnone hin => simp [SameSurround]

theorem Effect.one_response {s t : State} {i : Instr} (h : Effect s i t) : ∃ r, t.output = s.output ++ [r] := by
  cases h with
  | refused c hc => exact ⟨_, rfl⟩
  | done hnone hin => exact ⟨answerOf s i, by simp⟩

theorem eq_done_of_exec {s t : State} {i : Instr} (hnone : refusalOf s i = none) (h : exec i s = .next t) :
    t = (carriedOut s i).answer (answerOf s i) := by
  cases exec_eq_next_iff.mp h with
  | refused c hc => rw [hnone] at hc; cases hc
  | done _ hin => rfl

/-- Settles O48: each effect of a command keeps the surroundings and adds its one response. -/
theorem everyCommandLeavesTheBuildAlone : Obligations.EveryCommandLeavesTheBuildAlone := by
  intro i s t h
  have heffect := exec_eq_next_iff.mp h
  exact ⟨heffect.sameSurround, heffect.one_response⟩

/-! ### What a word and a step can do -/

/-- A word is refused as no command, or its command has one of its effects (60_exceptions.md R183). -/
theorem perform_eq_next_iff {w : Word} {s t : State} :
    perform w s = .next t ↔
      (∃ e, decode w = .error e ∧ t = s.afterFault .illegalCmd) ∨ ∃ i, decode w = .ok i ∧ Effect s i t := by
  unfold perform
  cases decode w with
  | error e => simp [raiseFault_eq_next]
  | ok i => simp [exec_eq_next_iff]

/-- A step waits, resets the block, or performs the word offered next. -/
theorem step_cases {s t : State} (h : step s = .next t) :
    t = s ∨ (∃ a rest, s.input = .reset a :: rest ∧ t = s.afterReset rest) ∨
      ∃ w rest, s.input = .command w :: rest ∧ perform w (s.setInput rest) = .next t := by
  match hinput : s.input with
  | [] =>
    simp only [step, hinput, Host.Outcome.next.injEq] at h
    exact .inl h.symm
  | .reset a :: rest =>
    simp only [step, hinput, takeEvent, Host.Outcome.next.injEq] at h
    exact .inr (.inl ⟨a, rest, rfl, h.symm⟩)
  | .command w :: rest => exact .inr (.inr ⟨w, rest, rfl, (step_of_input_command hinput).symm.trans h⟩)

section Keeps

variable {P : State → Prop} (hfault : ∀ s c, P s → P (s.afterFault c))
  (hdone : ∀ s i, P s → refusalOf s i = none → P ((carriedOut s i).answer (answerOf s i)))
include hfault hdone

/-- What every refusal and every command that is carried out keep, every command keeps. -/
theorem exec_keeps {i : Instr} {s t : State} (hs : P s) (h : exec i s = .next t) : P t := by
  cases exec_eq_next_iff.mp h with
  | refused c hc => exact hfault s c hs
  | done hnone hin => exact hdone s i hs hnone

/-- So does every word. -/
theorem perform_keeps {w : Word} {s t : State} (hs : P s) (h : perform w s = .next t) : P t := by
  obtain ⟨e, -, rfl⟩ | ⟨i, -, heffect⟩ := perform_eq_next_iff.mp h
  · exact hfault s _ hs
  · exact exec_keeps hfault hdone hs (exec_eq_next_iff.mpr heffect)

/-- What reset and the taking of an input keep as well, every step keeps. -/
theorem step_keeps (hinput : ∀ s rest, P s → P (s.setInput rest)) (hreset : ∀ s rest, P s → P (s.afterReset rest))
    {s t : State} (hs : P s) (h : step s = .next t) : P t := by
  obtain rfl | ⟨a, rest, -, rfl⟩ | ⟨w, rest, -, hperform⟩ := step_cases h
  · exact hs
  · exact hreset s rest hs
  · exact perform_keeps hfault hdone (hinput s rest hs) hperform

end Keeps

/-! ### The cursors stay in order -/

/-- 0 <= rd <= wr <= C (10_state.md R21). -/
def State.CursorsInStore (s : State) : Prop := s.rd ≤ s.wr ∧ s.wr ≤ s.build.capacity

theorem State.Inv.cursors {s : State} (h : s.Inv) : s.CursorsInStore := ⟨h.rd_le_wr, h.wr_le_capacity⟩

theorem State.CursorsInStore.unreadInside {s : State} (h : s.CursorsInStore) : s.UnreadInside := by
  simp only [State.CursorsInStore, State.UnreadInside, State.lenr] at h ⊢
  omega

theorem State.CursorsInStore.lenr_le_capacity {s : State} (h : s.CursorsInStore) : s.lenr ≤ s.build.capacity := by
  simp only [State.CursorsInStore, State.lenr] at h ⊢
  omega

theorem State.CursorsInStore.dropScanned {s : State} (h : s.CursorsInStore) : s.dropScanned.CursorsInStore := by
  simp only [State.CursorsInStore, State.dropScanned, State.lenr, State.setRd_rd, State.setRd_wr, State.setRd_build] at h ⊢
  omega

theorem State.CursorsInStore.compacted {s : State} (h : s.CursorsInStore) : s.compacted.CursorsInStore :=
  ⟨Nat.zero_le _, h.lenr_le_capacity⟩

theorem State.CursorsInStore.synced {s : State} (h : s.CursorsInStore) : s.synced.CursorsInStore := by
  rcases s.synced_eq_or with heq | heq
  · exact heq ▸ h.dropScanned
  · exact heq ▸ h.dropScanned.compacted

/-- Every command that is carried out keeps the cursors in order. -/
theorem State.CursorsInStore.after_done {s : State} {i : Instr} (h : s.CursorsInStore) (hnone : refusalOf s i = none) :
    (carriedOut s i).CursorsInStore := by
  cases i with
  | lenr | lenw | rdptr | wrptr | peek | scan | stat | poke => exact h
  | seek n =>
    have hrange : n ≤ s.lenw := by simpa [refusalOf] using hnone
    simp only [State.CursorsInStore, State.lenw, carriedOut, State.setWr_rd, State.setWr_wr, State.setWr_build] at *
    omega
  | put b =>
    have hfree : s.lenw ≠ 0 := by simpa [refusalOf] using hnone
    simp only [State.CursorsInStore, State.lenw, carriedOut, State.setWr_rd, State.setWr_wr, State.setWr_build,
      State.setMem_rd, State.setMem_build] at *
    omega
  | consume n =>
    have hrange : n ≤ s.lenr := by simpa [refusalOf] using hnone
    simp only [State.CursorsInStore, State.lenr, carriedOut, State.setRd_rd, State.setRd_wr, State.setRd_build] at *
    omega
  | compact => exact h.compacted
  | rewind => exact ⟨le_rfl, Nat.zero_le _⟩
  | sync => exact h.synced

theorem State.CursorsInStore.after_step {s t : State} (h : s.CursorsInStore) (hstep : step s = .next t) :
    t.CursorsInStore :=
  step_keeps (fun _ _ hs => hs) (fun _ _ hs hnone => hs.after_done hnone) (fun _ _ hs => hs)
    (fun _ _ _ => ⟨le_rfl, Nat.zero_le _⟩) h hstep

theorem State.CursorsInStore.after_exec {i : Instr} {s t : State} (h : s.CursorsInStore) (hexec : exec i s = .next t) :
    t.CursorsInStore :=
  exec_keeps (fun _ _ hs => hs) (fun _ _ hs hnone => hs.after_done hnone) h hexec

theorem State.CursorsInStore.after_perform {w : Word} {s t : State} (h : s.CursorsInStore)
    (hperform : perform w s = .next t) : t.CursorsInStore :=
  perform_keeps (fun _ _ hs => hs) (fun _ _ hs hnone => hs.after_done hnone) h hperform

/-- Settles O3: both cursors are 0 after reset, and every kind of step keeps them in order. -/
theorem cursorsStayOrderedInTheStore : Obligations.CursorsStayOrderedInTheStore := by
  constructor
  · exact fun b => ⟨le_rfl, Nat.zero_le _⟩
  · exact fun s t hrd hwr hstep => State.CursorsInStore.after_step ⟨hrd, hwr⟩ hstep

/-! ### The store stays canonical and inside its indices -/

theorem synced_mem_wf {s : State} (h : Memory.wf s.mem = true) : Memory.wf s.synced.mem = true := by
  rcases s.synced_eq_or with heq | heq
  · rw [heq]; exact h
  · rw [heq]; exact Memory.wf_copyDown h ..

theorem carriedOut_mem_wf {s : State} (i : Instr) (h : Memory.wf s.mem = true) :
    Memory.wf (carriedOut s i).mem = true := by
  cases i with
  | poke | put => exact Memory.wf_write h ..
  | compact => exact Memory.wf_copyDown h ..
  | sync => exact synced_mem_wf h
  | _ => exact h

/-- No index outside the store is ever listed. -/
def State.StoreInside (s : State) : Prop := ∀ c ∈ s.mem, c.1 < s.build.capacity

theorem State.StoreInside.compacted {s : State} (h : s.StoreInside) (hcur : s.CursorsInStore) : s.compacted.StoreInside :=
  Memory.inside_copyDown s.draw s.rd s.lenr h hcur.lenr_le_capacity

theorem State.StoreInside.synced {s : State} (h : s.StoreInside) (hcur : s.CursorsInStore) : s.synced.StoreInside := by
  have hdrop : s.dropScanned.StoreInside := h
  rcases s.synced_eq_or with heq | heq
  · exact heq ▸ hdrop
  · exact heq ▸ hdrop.compacted hcur.dropScanned

theorem State.StoreInside.after_done {s : State} {i : Instr} (h : s.StoreInside) (hcur : s.CursorsInStore)
    (hnone : refusalOf s i = none) : (carriedOut s i).StoreInside := by
  cases i with
  | poke n b => exact Memory.inside_write b h (pokeIndex_lt_capacity (by simpa [refusalOf] using hnone))
  | put b =>
    have hfree : s.lenw ≠ 0 := by simpa [refusalOf] using hnone
    exact Memory.inside_write b h (pokeIndex_lt_capacity (Nat.pos_of_ne_zero hfree))
  | compact => exact h.compacted hcur
  | sync => exact h.synced hcur
  | _ => exact h

/-! ### The whole invariant -/

theorem Cause.code_ne_seven (c : Cause) : c.code ≠ 7 := by cases c <;> decide

theorem latchCause_ne_seven (c : Cause) {f : BitVec 3} (h : f ≠ 7) : latchCause c f ≠ 7 := by
  unfold latchCause
  split
  · exact c.code_ne_seven
  · exact h

theorem State.Inv.setInput {s : State} (h : s.Inv) (rest : List HostEvent) : (s.setInput rest).Inv :=
  ⟨h.legal, h.rd_le_wr, h.wr_le_capacity, h.fcause_ne_seven, h.mem_wf, h.mem_inside⟩

theorem State.Inv.afterFault {s : State} (h : s.Inv) (c : Cause) : (s.afterFault c).Inv :=
  ⟨h.legal, h.rd_le_wr, h.wr_le_capacity, latchCause_ne_seven c h.fcause_ne_seven, h.mem_wf, h.mem_inside⟩

/-- An empty block of a legal build with no fault meets the invariant (10_state.md R29). -/
theorem inv_of_empty {s : State} (hbuild : legalBuild s.build) (hmem : s.mem = []) (hrd : s.rd = 0) (hwr : s.wr = 0)
    (hfcause : s.fcause = 0) : s.Inv where
  legal := hbuild
  rd_le_wr := by omega
  wr_le_capacity := by omega
  fcause_ne_seven := by rw [hfcause]; decide
  mem_wf := by rw [hmem]; rfl
  mem_inside := by simp [hmem]

theorem State.Inv.done {s : State} (h : s.Inv) {i : Instr} (hnone : refusalOf s i = none) :
    ((carriedOut s i).answer (answerOf s i)).Inv := by
  obtain ⟨hrd, hwr⟩ := h.cursors.after_done hnone
  exact {
    legal := by simpa using h.legal
    rd_le_wr := hrd
    wr_le_capacity := hwr
    fcause_ne_seven := by simpa using h.fcause_ne_seven
    mem_wf := carriedOut_mem_wf i h.mem_wf
    mem_inside := State.StoreInside.after_done h.mem_inside h.cursors hnone }

/-- Settles O4: reset, a refusal and every command that is carried out keep the invariant. -/
theorem stepKeepsInvariant : Obligations.StepKeepsInvariant := fun _ _ =>
  step_keeps (fun _ c h => h.afterFault c) (fun _ _ h hnone => h.done hnone)
    (fun _ rest h => h.setInput rest) (fun _ _ h => inv_of_empty h.legal rfl rfl rfl rfl)

/-! ### One answer for each word -/

/-- With the cursors in order a command that is not refused reads inside the store. -/
theorem State.CursorsInStore.readsInside {s : State} {i : Instr} (h : s.CursorsInStore) (hnone : refusalOf s i = none) :
    ReadsInside s i := by
  cases i with
  | peek n =>
    have hrange : n < s.lenr := by simpa [refusalOf] using hnone
    simp only [ReadsInside, State.CursorsInStore, State.lenr, State.peekIndex] at *
    omega
  | compact | scan | sync => exact h.unreadInside
  | _ => trivial

theorem exec_answers {s : State} (h : s.CursorsInStore) (i : Instr) : ∃ t, Effect s i t := by
  cases hr : refusalOf s i with
  | some c => exact ⟨_, .refused c hr⟩
  | none => exact ⟨_, .done hr (h.readsInside hr)⟩

theorem perform_answers {s : State} (h : s.CursorsInStore) (w : Word) : ∃ t, perform w s = .next t := by
  cases hdecode : decode w with
  | error e => exact ⟨_, perform_eq_next_iff.mpr (.inl ⟨e, hdecode, rfl⟩)⟩
  | ok i =>
    obtain ⟨t, ht⟩ := exec_answers h i
    exact ⟨t, perform_eq_next_iff.mpr (.inr ⟨i, hdecode, ht⟩)⟩

/-- A word leaves the later inputs alone and adds one response, illegal or not (10_state.md R30). -/
theorem perform_answers_once {w : Word} {s t : State} (h : perform w s = .next t) :
    t.input = s.input ∧ ∃ r, t.output = s.output ++ [r] := by
  obtain ⟨e, -, rfl⟩ | ⟨i, -, heffect⟩ := perform_eq_next_iff.mp h
  · exact ⟨rfl, _, rfl⟩
  · obtain ⟨-, -, hinput⟩ := heffect.sameSurround
    exact ⟨hinput, heffect.one_response⟩

/-- Settles O9: the word is taken from the input, and performing it answers once. -/
theorem everyCommandIsAnsweredOnce : Obligations.EveryCommandIsAnsweredOnce := by
  intro s w rest hinv hinput
  obtain ⟨t, ht⟩ := perform_answers (hinv.setInput rest).cursors w
  obtain ⟨hrest, r, hr⟩ := perform_answers_once ht
  exact ⟨t, r, (step_of_input_command hinput).trans ht, hr, hrest⟩

/-! ### The fault code is the first refusal's cause -/

/-- One more response keeps the log when `fcause` latches its cause, if it is a refusal, where there was none
(60_exceptions.md R182). -/
theorem State.FaultLoggedSince.answered {before : List Word} {s t : State} (h : s.FaultLoggedSince before) {r : Word}
    (hout : t.output = s.output ++ [r]) (hcause : rspRefused r = true → rspCause r ≠ 0)
    (hfcause : t.fcause = if s.fcause = 0 then (if rspRefused r then rspCause r else 0) else s.fcause) :
    t.FaultLoggedSince before := by
  obtain ⟨since, hbefore, hfirst, hcauses⟩ := h
  refine ⟨since ++ [r], by rw [hout, hbefore, List.append_assoc], ?_, ?_⟩
  · rw [hfcause, hfirst, firstRefusalCause_append since hcauses]
  · intro x hx
    rcases List.mem_append.mp hx with hx | hx
    · exact hcauses x hx
    · exact List.mem_singleton.mp hx ▸ hcause

theorem State.FaultLoggedSince.afterFault {before : List Word} {s : State} (h : s.FaultLoggedSince before) (c : Cause) :
    (s.afterFault c).FaultLoggedSince before :=
  h.answered (r := refusedWord c) rfl (by simpa using c.code_ne_zero) (by simp [latchCause])

theorem State.FaultLoggedSince.done {before : List Word} {s : State} (h : s.FaultLoggedSince before) (i : Instr) :
    ((carriedOut s i).answer (answerOf s i)).FaultLoggedSince before :=
  h.answered (r := answerOf s i) (by simp) (by simp) (by simp +contextual)

/-- No response since means no refusal since. -/
theorem faultLoggedSince_output {s : State} (h : s.fcause = 0) : s.FaultLoggedSince s.output :=
  ⟨[], (List.append_nil _).symm, h, by simp⟩

/-- Settles O60: a word adds one response to the log and latches its cause, and reset starts the log again. -/
theorem faultCodeIsFirstRefusalSinceReset : Obligations.FaultCodeIsFirstRefusalSinceReset := by
  constructor
  · intro before s t hlogged hnoReset hstep
    obtain rfl | ⟨a, rest, hinput, -⟩ | ⟨w, rest, -, hperform⟩ := step_cases hstep
    · exact hlogged
    · exact absurd (by simp [hinput]) (hnoReset a)
    · exact perform_keeps (fun _ c h => h.afterFault c) (fun _ i h _ => h.done i)
        (s := s.setInput rest) hlogged hperform
  · intro s t abandoned rest hinput hstep
    obtain rfl : s.afterReset rest = t := by simpa [step, hinput, takeEvent] using hstep
    exact ⟨rfl, faultLoggedSince_output rfl⟩

/-! ### Reset -/

/-- Settles O1: the reset values, and an empty listing reads as the free value everywhere. -/
theorem resetLeavesEmptyBuffer : Obligations.ResetLeavesEmptyBuffer := by
  intro b
  have hlenw : (State.resetFor b).lenw = b.capacity := Nat.sub_zero _
  exact ⟨rfl, rfl, rfl, rfl, hlenw, fun i => Memory.read_nil _ i⟩

theorem resetFor_inv {b : Config.Build} (h : legalBuild b) : (State.resetFor b).Inv :=
  inv_of_empty h rfl rfl rfl rfl

/-- Settles O2: the reset state is an empty block with no fault and no response. -/
theorem resetMeetsInvariant : Obligations.ResetMeetsInvariant := by
  have hreference : legalBuild Config.reference := by decide
  exact ⟨fun b => resetFor_inv, resetFor_inv hreference, fun b => faultLoggedSince_output rfl⟩

/-! ### Where the store changes -/

theorem compacted_readByte (s : State) (a : Nat) :
    s.compacted.readByte a = if a < s.lenr then s.readByte (s.rd + a) else s.readByte a := by
  simp [State.compacted, State.readByte, Memory.read_copyDown]

theorem compacted_readByte_of_le {s : State} {a : Nat} (h : s.lenr ≤ a) : s.compacted.readByte a = s.readByte a := by
  rw [compacted_readByte, if_neg (by omega)]

/-- SYNC writes below the length it keeps, and only when it compacts. -/
theorem synced_readByte {s : State} {a : Nat} (h : (scan s.unread).rem ≤ a ∨ s.syncOutcome = .found) :
    s.synced.readByte a = s.readByte a := by
  by_cases hfound : s.syncOutcome = .found
  · rw [State.synced_of_found hfound]; rfl
  · have hrem : s.dropScanned.lenr ≤ a := (dropScanned_lenr s).trans_le (h.resolve_right hfound)
    rw [State.synced_of_not_found hfound, compacted_readByte_of_le hrem]; rfl

theorem ResultClass.code_eq_found_iff (r : ResultClass) : r.code = ResultClass.found.code ↔ r = .found := by
  cases r <;> decide

/-- The response of a SYNC tells whether it compacted. -/
theorem answeredFrame_answer_sync (s u : State) :
    answeredFrame (u.answer (answerOf s .sync)) = true ↔ s.syncOutcome = .found := by
  simp [answeredFrame, answerOf, ResultClass.code_eq_found_iff]

theorem answeredFrame_eq_false_iff {s u : State} :
    answeredFrame (u.answer (answerOf s .sync)) = false ↔ s.syncOutcome ≠ .found := by
  rw [← Bool.not_eq_true, answeredFrame_answer_sync]

/-- Settles O47: a refused command writes nothing, the others by the frame of their one store operation. -/
theorem storeChangesOnlyWhereWritten : Obligations.StoreChangesOnlyWhereWritten := by
  intro i s t h a ha
  cases exec_eq_next_iff.mp h with
  | refused c hc => rfl
  | done hnone hin =>
    rw [State.answer_readByte]
    cases i with
    | poke n b | put b => exact Memory.read_write_other s.draw s.mem b ha
    | compact => exact compacted_readByte_of_le ha
    | sync => exact synced_readByte (ha.imp_right (answeredFrame_answer_sync s _).mp)
    | _ => rfl

/-! ### Which commands move a cursor -/

theorem synced_wr_of_found {s : State} (h : s.syncOutcome = .found) : s.synced.wr = s.wr := by
  rw [State.synced_of_found h]; rfl

theorem synced_rd_of_not_found {s : State} (h : s.syncOutcome ≠ .found) : s.synced.rd = 0 := by
  rw [State.synced_of_not_found h]; rfl

/-- Settles O53: the fields each command leaves alone, and a SYNC that answers FRAME moves only `rd`. -/
theorem cursorsMoveOnlyByTheirCommands : Obligations.CursorsMoveOnlyByTheirCommands := by
  intro i s t h
  cases exec_eq_next_iff.mp h with
  | refused c hc => exact ⟨fun hrd => absurd rfl hrd, fun hwr => absurd rfl hwr⟩
  | done hnone hin =>
    cases i with
    | lenr | lenw | rdptr | wrptr | peek | poke | scan | stat =>
      exact ⟨fun hrd => absurd rfl hrd, fun hwr => absurd rfl hwr⟩
    | seek n => exact ⟨fun hrd => absurd rfl hrd, fun _ => .inl ⟨n, rfl⟩⟩
    | put b => exact ⟨fun hrd => absurd rfl hrd, fun _ => .inr (.inl ⟨b, rfl⟩)⟩
    | consume n => exact ⟨fun _ => .inl ⟨n, rfl⟩, fun hwr => absurd rfl hwr⟩
    | compact => simp
    | rewind => simp
    | sync =>
      refine ⟨fun _ => .inr (.inr (.inr rfl)), fun hwr => ?_⟩
      have hstop : s.syncOutcome ≠ .found := fun hfound => hwr (synced_wr_of_found hfound)
      exact .inr (.inr (.inr (.inr ⟨rfl, answeredFrame_eq_false_iff.mpr hstop⟩)))

/-! ### Unread plus free space -/

theorem State.CursorsInStore.lenr_add_lenw {s : State} (h : s.CursorsInStore) :
    s.lenr + s.lenw = s.build.capacity - s.rd := by
  simp only [State.CursorsInStore, State.lenr, State.lenw] at h ⊢
  omega

/-- All of the store is unread or free exactly when no byte has been consumed (10_state.md R23). -/
theorem State.CursorsInStore.lenr_add_lenw_eq_capacity_iff {s : State} (h : s.CursorsInStore) :
    s.lenr + s.lenw = s.build.capacity ↔ s.rd = 0 := by
  rw [h.lenr_add_lenw]
  simp only [State.CursorsInStore] at h
  omega

/-- A SYNC that answers FRAME and keeps the number of unread bytes has dropped none. -/
theorem synced_rd_of_lenr_eq {s : State} (hfound : s.syncOutcome = .found) (h : s.synced.lenr = s.lenr) :
    s.synced.rd = s.rd := by
  rw [State.synced_of_found hfound] at h ⊢
  rw [dropScanned_lenr] at h
  simp [State.dropScanned, h]

/-- REWIND, COMPACT and a SYNC that does not answer FRAME put the read cursor at 0. -/
theorem rd_eq_zero_of_emptied_front {s t : State}
    (h : exec .rewind s = .next t ∨ exec .compact s = .next t ∨ (exec .sync s = .next t ∧ answeredFrame t = false)) :
    t.rd = 0 := by
  obtain h | h | ⟨h, hanswer⟩ := h
  · obtain rfl := eq_done_of_exec rfl h
    rfl
  · obtain rfl := eq_done_of_exec rfl h
    rfl
  · obtain rfl := eq_done_of_exec rfl h
    exact synced_rd_of_not_found (answeredFrame_eq_false_iff.mp hanswer)

/-- Any other word keeps the read cursor at 0, but for CONSUME and a SYNC that drops bytes and answers FRAME. -/
theorem rd_eq_zero_of_perform {w : Word} {s t : State} (hrd : s.rd = 0) (hconsume : ∀ n, decode w ≠ .ok (.consume n))
    (h : perform w s = .next t) (hsync : decode w = .ok .sync → answeredFrame t = true → t.lenr = s.lenr) : t.rd = 0 := by
  obtain ⟨e, -, rfl⟩ | ⟨i, hdecode, heffect⟩ := perform_eq_next_iff.mp h
  · exact hrd
  cases heffect with
  | refused c hc => exact hrd
  | done hnone hin =>
    cases i with
    | consume n => exact absurd hdecode (hconsume n)
    | compact | rewind => rfl
    | sync =>
      by_cases hfound : s.syncOutcome = .found
      · have hlenr := hsync hdecode ((answeredFrame_answer_sync s _).mpr hfound)
        exact (synced_rd_of_lenr_eq hfound hlenr).trans hrd
      · exact synced_rd_of_not_found hfound
    | _ => exact hrd

/-- Settles O51: with the cursors in order the sum is C exactly when `rd = 0`, and `rd` is 0 in the cases listed. -/
theorem unreadPlusFreeIsCapacityWhenReadCursorIsZero : Obligations.UnreadPlusFreeIsCapacityWhenReadCursorIsZero := by
  refine ⟨fun s hrd hwr => ?_, fun b => ?_, fun s t hrd hwr h => ?_, fun w s t hrd hwr hsum hconsume h hsync => ?_⟩
  · have hcur : s.CursorsInStore := ⟨hrd, hwr⟩
    exact ⟨hcur.lenr_add_lenw, hcur.lenr_add_lenw_eq_capacity_iff⟩
  · simp [State.resetFor, State.lenr, State.lenw]
  · have hcur : t.CursorsInStore := by
      obtain h | h | ⟨h, -⟩ := h <;> exact State.CursorsInStore.after_exec ⟨hrd, hwr⟩ h
    exact hcur.lenr_add_lenw_eq_capacity_iff.mpr (rd_eq_zero_of_emptied_front h)
  · have hcur : s.CursorsInStore := ⟨hrd, hwr⟩
    have hzero : s.rd = 0 := hcur.lenr_add_lenw_eq_capacity_iff.mp hsum
    exact (hcur.after_perform h).lenr_add_lenw_eq_capacity_iff.mpr (rd_eq_zero_of_perform hzero hconsume h hsync)

end Sys2Proof.Machine

/-! SUPPORT. 10_state.md R28: two states with the same view, and what a command makes of them. -/

namespace Sys2Proof.Machine

/-- The unread lists are the same when the unread bytes are, index by index. -/
theorem unread_eq_iff {s t : State} (hrd : t.rd = s.rd) (hwr : t.wr = s.wr) :
    t.unread = s.unread ↔ ∀ a, s.rd ≤ a → a < s.wr → t.readByte a = s.readByte a := by
  have hlenr : t.lenr = s.lenr := by rw [State.lenr, State.lenr, hrd, hwr]
  constructor
  · intro h a hrd' hwr'
    have hk : a - s.rd < s.lenr := by unfold State.lenr; omega
    have hbyte : t.unread[a - s.rd]? = s.unread[a - s.rd]? := by rw [h]
    rw [getElem?_unread, getElem?_unread, hlenr, hrd, if_pos hk, if_pos hk, Nat.add_sub_cancel' hrd'] at hbyte
    exact Option.some.inj hbyte
  · intro h
    unfold State.unread
    rw [hlenr, hrd]
    refine Memory.bytesFrom_congr fun k hk => h _ (Nat.le_add_right ..) ?_
    unfold State.lenr at hk
    omega

/-- Same view: the same build, cursors and fault code, and the same byte at each unread index. -/
theorem sameView_iff {s t : State} :
    SameView s t ↔ t.build = s.build ∧ t.rd = s.rd ∧ t.wr = s.wr ∧ t.fcause = s.fcause ∧
      ∀ a, s.rd ≤ a → a < s.wr → t.readByte a = s.readByte a := by
  unfold SameView
  constructor
  · rintro ⟨hbuild, hrd, hwr, hfcause, h⟩
    exact ⟨hbuild, hrd, hwr, hfcause, (unread_eq_iff hrd hwr).mp h⟩
  · rintro ⟨hbuild, hrd, hwr, hfcause, h⟩
    exact ⟨hbuild, hrd, hwr, hfcause, (unread_eq_iff hrd hwr).mpr h⟩

namespace SameView

variable {s t : State}

theorem build_eq (h : SameView s t) : t.build = s.build := by
  obtain ⟨hbuild, -⟩ := h
  exact hbuild

theorem rd_eq (h : SameView s t) : t.rd = s.rd := by
  obtain ⟨-, hrd, -⟩ := h
  exact hrd

theorem wr_eq (h : SameView s t) : t.wr = s.wr := by
  obtain ⟨-, -, hwr, -⟩ := h
  exact hwr

theorem fcause_eq (h : SameView s t) : t.fcause = s.fcause := by
  obtain ⟨-, -, -, hfcause, -⟩ := h
  exact hfcause

theorem unread_eq (h : SameView s t) : t.unread = s.unread := by
  obtain ⟨-, -, -, -, hunread⟩ := h
  exact hunread

theorem readByte_eq (h : SameView s t) {a : Nat} (hlo : s.rd ≤ a) (hhi : a < s.wr) : t.readByte a = s.readByte a :=
  (unread_eq_iff h.rd_eq h.wr_eq).mp h.unread_eq a hlo hhi

theorem lenr_eq (h : SameView s t) : t.lenr = s.lenr := by
  rw [State.lenr, State.lenr, h.rd_eq, h.wr_eq]

theorem lenw_eq (h : SameView s t) : t.lenw = s.lenw := by
  rw [State.lenw, State.lenw, h.build_eq, h.wr_eq]

theorem frameSize_eq (h : SameView s t) : t.frameSize = s.frameSize := by
  rw [State.frameSize, State.frameSize, h.build_eq]

theorem syncOutcome_eq (h : SameView s t) : t.syncOutcome = s.syncOutcome := by
  rw [State.syncOutcome, State.syncOutcome, h.unread_eq, h.frameSize_eq]

/-! #### What the host gets from a state depends on its view alone -/

theorem refusalOf_eq (h : SameView s t) (i : Instr) : refusalOf t i = refusalOf s i := by
  cases i <;> simp only [refusalOf, State.peekInRange, State.pokeInRange, State.seekInRange, State.consumeInRange,
    h.lenr_eq, h.lenw_eq]

theorem readsInside_iff (h : SameView s t) (i : Instr) : ReadsInside t i ↔ ReadsInside s i := by
  cases i <;> simp only [ReadsInside, State.peekIndex, State.UnreadInside, h.lenr_eq, h.rd_eq, h.build_eq]

theorem answerOf_eq (h : SameView s t) {i : Instr} (hnone : refusalOf s i = none) : answerOf t i = answerOf s i := by
  cases i with
  | peek n =>
    have hrange : n < s.lenr := by simpa [refusalOf] using hnone
    have hbyte : t.readByte (s.rd + n) = s.readByte (s.rd + n) :=
      h.readByte_eq (Nat.le_add_right ..) (by unfold State.lenr at hrange; omega)
    simp only [answerOf, State.peekIndex, h.rd_eq, hbyte]
  | sync => simp only [answerOf, State.syncSeq, h.syncOutcome_eq, h.unread_eq]
  | _ => simp only [answerOf, h.lenr_eq, h.lenw_eq, h.rd_eq, h.wr_eq, h.fcause_eq, h.unread_eq]

/-! #### The view afterwards depends on the view alone -/

theorem answer (h : SameView s t) (r r' : Word) : SameView (s.answer r) (t.answer r') := h

theorem afterFault (h : SameView s t) (c : Cause) : SameView (s.afterFault c) (t.afterFault c) :=
  ⟨h.build_eq, h.rd_eq, h.wr_eq, congrArg (latchCause c) h.fcause_eq, h.unread_eq⟩

/-- Bytes that leave the unread region become hidden. -/
theorem setRd (h : SameView s t) {n : Nat} (hn : s.rd ≤ n) : SameView (s.setRd n) (t.setRd n) :=
  sameView_iff.mpr ⟨h.build_eq, rfl, h.wr_eq, h.fcause_eq, fun _ hlo hhi => h.readByte_eq (hn.trans hlo) hhi⟩

/-- A byte written alike in both stores keeps what was the same the same. -/
theorem setMem_write (h : SameView s t) (a : Nat) (b : Byte) :
    SameView (s.setMem (Memory.write s.mem a b)) (t.setMem (Memory.write t.mem a b)) := by
  refine sameView_iff.mpr ⟨h.build_eq, h.rd_eq, h.wr_eq, h.fcause_eq, fun j hlo hhi => ?_⟩
  rw [State.setMem_readByte, State.setMem_readByte, Memory.read_write, Memory.read_write]
  split
  · rfl
  · exact h.readByte_eq hlo hhi

/-- The byte written at the write cursor joins the unread region, the same in both. -/
theorem setMem_write_setWr (h : SameView s t) (b : Byte) :
    SameView ((s.setMem (Memory.write s.mem s.wr b)).setWr (s.wr + 1))
      ((t.setMem (Memory.write t.mem s.wr b)).setWr (s.wr + 1)) := by
  refine sameView_iff.mpr ⟨h.build_eq, h.rd_eq, rfl, h.fcause_eq, fun j hlo hhi => ?_⟩
  rw [State.setWr_readByte, State.setWr_readByte, State.setMem_readByte, State.setMem_readByte, Memory.read_write,
    Memory.read_write]
  split
  · rfl
  · exact h.readByte_eq hlo (by simp only [State.setWr_wr] at hhi; omega)

theorem compacted (h : SameView s t) : SameView s.compacted t.compacted := by
  refine sameView_iff.mpr ⟨h.build_eq, rfl, h.lenr_eq, h.fcause_eq, fun j _ hj => ?_⟩
  have hlenr : j < s.lenr := hj
  rw [compacted_readByte, compacted_readByte, h.lenr_eq, h.rd_eq, if_pos hlenr, if_pos hlenr]
  exact h.readByte_eq (Nat.le_add_right ..) (by unfold State.lenr at hlenr; omega)

theorem dropScanned (h : SameView s t) : SameView s.dropScanned t.dropScanned := by
  have hdrop : t.dropScanned = t.setRd (s.rd + (s.lenr - (scan s.unread).rem)) := by
    rw [State.dropScanned, h.rd_eq, h.lenr_eq, h.unread_eq]
  exact hdrop ▸ h.setRd (Nat.le_add_right ..)

theorem synced (h : SameView s t) : SameView s.synced t.synced := by
  by_cases hfound : s.syncOutcome = .found
  · rw [State.synced_of_found hfound, State.synced_of_found (h.syncOutcome_eq.trans hfound)]
    exact h.dropScanned
  · rw [State.synced_of_not_found hfound, State.synced_of_not_found (h.syncOutcome_eq ▸ hfound)]
    exact h.dropScanned.compacted

/-- Every command but SEEK keeps the views the same. -/
theorem after_done (h : SameView s t) {i : Instr} (hseek : ∀ n, i ≠ .seek n) :
    SameView (carriedOut s i) (carriedOut t i) := by
  cases i with
  | lenr | lenw | rdptr | wrptr | peek | scan | stat => exact h
  | seek n => exact absurd rfl (hseek n)
  | poke n b =>
    simp only [carriedOut, State.pokeIndex, h.wr_eq]
    exact h.setMem_write (s.wr + n) b
  | put b =>
    simp only [carriedOut, State.pokeIndex, Nat.add_zero, h.wr_eq]
    exact h.setMem_write_setWr b
  | consume n =>
    simp only [carriedOut, h.rd_eq]
    exact h.setRd (Nat.le_add_right ..)
  | compact => exact h.compacted
  | rewind => exact sameView_iff.mpr ⟨h.build_eq, rfl, rfl, h.fcause_eq, fun a _ ha => absurd ha (Nat.not_lt_zero a)⟩
  | sync => exact h.synced

end SameView

/-- Settles O50: refusal, response and the view afterwards are read off the view before. -/
theorem hiddenBytesDoNotShow : Obligations.HiddenBytesDoNotShow := by
  intro i s t s' hview h
  cases exec_eq_next_iff.mp h with
  | refused c hc =>
    refine ⟨_, exec_of_refused ((hview.refusalOf_eq i).trans hc), ?_, fun _ => hview.afterFault c⟩
    rw [State.afterFault_lastResponse, State.afterFault_lastResponse]
  | done hnone hin =>
    refine ⟨_, exec_of_done ((hview.refusalOf_eq i).trans hnone) ((hview.readsInside_iff i).mpr hin), ?_,
      fun hseek => (hview.after_done hseek).answer _ _⟩
    rw [State.answer_lastResponse, State.answer_lastResponse, hview.answerOf_eq hnone]

end Sys2Proof.Machine

/-! SUPPORT. 20_memory.md: the block never stops taking commands (R47, R48), and the queries (R45). -/

namespace Sys2Proof.Machine

/-! ### The step answers, and a run performs what is offered -/

/-- With the cursors in order, whatever the host offers is answered by a next state. -/
theorem State.CursorsInStore.step_answers {s : State} (h : s.CursorsInStore) : ∃ t, step s = .next t := by
  match hinput : s.input with
  | [] => exact ⟨s, by simp only [step, hinput]⟩
  | .reset _ :: rest => exact ⟨s.afterReset rest, by simp only [step, hinput, takeEvent]⟩
  | .command w :: rest =>
    have hset : (s.setInput rest).CursorsInStore := h
    obtain ⟨t, ht⟩ := perform_answers hset w
    exact ⟨t, (step_of_input_command hinput).trans ht⟩

/-- Settles O10: the invariant keeps the cursors in order, and so every input is answered. -/
theorem noStepFaults : Obligations.NoStepFaults := fun _ hinv => hinv.cursors.step_answers

theorem run_succ_of_step {k : Nat} {s u : State} (h : step s = .next u) :
    Sys2Proof.core.run (k + 1) s = Sys2Proof.core.run k u := by
  have hstep : Sys2Proof.core.step s = .next u := h
  simp only [Host.Core.run, hstep]

/-- The list of commands offered is performed front to back: each step takes one word, keeps the invariant and adds one
response (20_memory.md R48). -/
theorem run_performs_commands {l : List HostEvent} {s : State} (hinv : s.Inv) (hinput : s.input = l)
    (hcommands : ∀ e ∈ l, ∃ w, e = .command w) :
    ∃ t : State, Sys2Proof.core.run l.length s = .next t ∧ t.Inv ∧ t.input = [] ∧
      s.output <+: t.output ∧ t.output.length = s.output.length + l.length := by
  induction l generalizing s with
  | nil => exact ⟨s, rfl, hinv, hinput, List.prefix_rfl, rfl⟩
  | cons e rest ih =>
    obtain ⟨w, rfl⟩ := hcommands e List.mem_cons_self
    obtain ⟨u, r, hstep, hout, hrest⟩ := everyCommandIsAnsweredOnce s w rest hinv hinput
    obtain ⟨t, hrun, htinv, htinput, hprefix, hlength⟩ :=
      ih (stepKeepsInvariant s u hinv hstep) hrest fun e he => hcommands e (List.mem_cons_of_mem _ he)
    have hfirst : s.output <+: u.output := hout ▸ List.prefix_append ..
    have hone : u.output.length = s.output.length + 1 := by simp [hout]
    refine ⟨t, (run_succ_of_step hstep).trans hrun, htinv, htinput, hfirst.trans hprefix, ?_⟩
    rw [hlength, hone, List.length_cons, Nat.add_assoc, Nat.add_comm 1]

/-- Settles O11: the whole input is such a list. -/
theorem runPerformsWholeCommandList : Obligations.RunPerformsWholeCommandList :=
  fun _ hinv hcommands => run_performs_commands hinv rfl hcommands

/-! ### Commands that leave the block as it is -/

theorem onlyAnswered_answer (s : State) (r : Word) : OnlyAnswered s (s.answer r) r :=
  ⟨rfl, rfl, fun _ => rfl, ⟨rfl, rfl⟩, rfl, rfl, rfl, rfl⟩

theorem sameView_answer (s : State) (r : Word) : SameView s (s.answer r) := ⟨rfl, rfl, rfl, rfl, rfl⟩

/-- No command's range depends on `fcause`: what was refused once is refused again (60_exceptions.md R182). -/
theorem refusalOf_afterFault (s : State) (c : Cause) (i : Instr) : refusalOf (s.afterFault c) i = refusalOf s i := by
  cases i <;> rfl

section Query

variable {i : Instr} {s t u : State} (hkeep : carriedOut s i = s)
include hkeep

/-- A command that moves nothing only answers, unless it is refused. -/
theorem onlyAnswered_of_exec (h : exec i s = .next t) (hdone : rspRefused t.lastResponse = false) :
    OnlyAnswered s t t.lastResponse := by
  cases exec_eq_next_iff.mp h with
  | refused c hc => simp at hdone
  | done hnone hin =>
    rw [hkeep, State.answer_lastResponse]
    exact onlyAnswered_answer s _

/-- A command that moves nothing answers the same again: a refusal with the same cause, or a response that the host's view
of the block, still the same, determines. -/
theorem lastResponse_of_repeated (h : exec i s = .next t) (hagain : exec i t = .next u) :
    u.lastResponse = t.lastResponse := by
  cases exec_eq_next_iff.mp h with
  | refused c hc =>
    have hc' := exec_of_refused ((refusalOf_afterFault s c i).trans hc)
    obtain rfl := Host.Outcome.next.inj (hc'.symm.trans hagain)
    rw [State.afterFault_lastResponse, State.afterFault_lastResponse]
  | done hnone hin =>
    rw [hkeep] at hagain ⊢
    have hview := sameView_answer s (answerOf s i)
    obtain rfl := eq_done_of_exec ((hview.refusalOf_eq i).trans hnone) hagain
    rw [State.answer_lastResponse, State.answer_lastResponse, hview.answerOf_eq hnone]

end Query

/-- Settles O49: each of the seven queries moves nothing when it is carried out. -/
theorem queriesAreIdempotent : Obligations.QueriesAreIdempotent := by
  intro i s t u hquery h hagain
  have hkeep : carriedOut s i = s := by
    obtain rfl | rfl | rfl | rfl | rfl | rfl | ⟨n, rfl⟩ := hquery <;> rfl
  exact ⟨lastResponse_of_repeated hkeep h hagain, onlyAnswered_of_exec hkeep h⟩

end Sys2Proof.Machine

/-! SUPPORT. 30_encoding.md: the opcode map row by row, the fields of a response word, the four markers, a frame at the
start of the unread region, and the two pseudo-commands when the bytes do not all fit. -/

namespace Sys2Proof

/-! ### A row of the opcode map -/

/-- A row of the opcode map: match, mask, and the command of the fields B and N (30_encoding.md R69). -/
abbrev OpcodeRow := Word × Word × (Byte → Nat → Instr)

/-- The word selects the row: `cmd & mask = match` (30_encoding.md R69). -/
abbrev Selects (w : Word) (row : OpcodeRow) : Prop := w &&& row.2.1 = row.1

/-- The command a row stands for in the word `w`. -/
abbrev rowCommand (row : OpcodeRow) (w : Word) : Instr := row.2.2 (byteField w) (countField w).toNat

/-- A row's match has the OP and zeros, and its mask compares the whole OP. -/
theorem opcodeMap_shape :
    ∀ row ∈ opcodeMap, row.1 = packCommand (opField row.1) 0 0 ∧ opField row.2.1 = 0xFF#8 := by
  decide

theorem packCommand_inj {op op' : BitVec 8} {b b' : Byte} {n n' : Half} :
    packCommand op b n = packCommand op' b' n' ↔ op = op' ∧ b = b' ∧ n = n' := by
  constructor
  · intro h
    exact ⟨by simpa using congrArg opField h, by simpa using congrArg byteField h, by simpa using congrArg countField h⟩
  · rintro ⟨rfl, rfl, rfl⟩
    rfl

/-- A word selects a row exactly when it has the row's OP and zeros wherever the mask compares B and N. -/
theorem selects_iff {row : OpcodeRow} (hrow : row ∈ opcodeMap) (w : Word) :
    Selects w row ↔ opField w = opField row.1 ∧ byteField w &&& byteField row.2.1 = 0 ∧
      countField w &&& countField row.2.1 = 0 := by
  obtain ⟨hmatch, hmask⟩ := opcodeMap_shape row hrow
  have hmasked : w &&& row.2.1 =
      packCommand (opField w) (byteField w &&& byteField row.2.1) (countField w &&& countField row.2.1) := by
    conv_lhs => rw [← packCommand_fields w, ← packCommand_fields row.2.1, packCommand_and, hmask]
    exact congrArg (packCommand · _ _) BitVec.and_allOnes
  rw [Selects, hmasked, hmatch, packCommand_inj, opField_packCommand]

/-! ### What the decoder does with an OP of the table, and with the others -/

/-- The fields a row compares are zero, or the word is refused (30_encoding.md R72). -/
def decodeMasked (row : OpcodeRow) (b : Byte) (n : Half) : Except DecodeError Instr :=
  if b &&& byteField row.2.1 = 0 ∧ n &&& countField row.2.1 = 0 then .ok (row.2.2 b n.toNat)
  else .error .unusedFieldNonzero

section Masks

variable (b : Byte) (n : Half) (op : Word)

theorem decodeBare_eq_masked (i : Instr) : decodeBare b n i = decodeMasked (op, 0xFFFFFFFF#32, fun _ _ => i) b n := by
  have hb : b &&& byteField 0xFFFFFFFF#32 = b := BitVec.and_allOnes
  have hn : n &&& countField 0xFFFFFFFF#32 = n := BitVec.and_allOnes
  simp only [decodeBare, decodeMasked, hb, hn]

theorem decodeCount_eq_masked (f : Nat → Instr) :
    decodeCount b (f n.toNat) = decodeMasked (op, 0xFFFF0000#32, fun _ n => f n) b n := by
  have hb : b &&& byteField 0xFFFF0000#32 = b := BitVec.and_allOnes
  have hn : n &&& countField 0xFFFF0000#32 = 0 := BitVec.and_zero
  simp only [decodeCount, decodeMasked, hb, hn, and_true]

theorem decodeByte_eq_masked (f : Byte → Instr) :
    decodeByte n (f b) = decodeMasked (op, 0xFF00FFFF#32, fun b _ => f b) b n := by
  have hb : b &&& byteField 0xFF00FFFF#32 = 0 := BitVec.and_zero
  have hn : n &&& countField 0xFF00FFFF#32 = n := BitVec.and_allOnes
  simp only [decodeByte, decodeMasked, hb, hn, true_and]

theorem ok_eq_masked (f : Byte → Nat → Instr) :
    .ok (f b n.toNat) = decodeMasked (op, 0xFF000000#32, f) b n := by
  have hb : b &&& byteField 0xFF000000#32 = 0 := BitVec.and_zero
  have hn : n &&& countField 0xFF000000#32 = 0 := BitVec.and_zero
  simp only [decodeMasked, hb, hn, and_self, if_true]

end Masks

/-- The decoder's arm for each row's OP is the row (30_encoding.md R69). -/
theorem decodeFields_of_row (b : Byte) (n : Half) :
    ∀ row ∈ opcodeMap, decodeFields (opField row.1) b n = decodeMasked row b n := by
  simp only [opcodeMap, List.forall_mem_cons, List.not_mem_nil, IsEmpty.forall_iff, implies_true, and_true]
  exact ⟨decodeBare_eq_masked b n _ .lenr, decodeBare_eq_masked b n _ .lenw, decodeBare_eq_masked b n _ .rdptr,
    decodeBare_eq_masked b n _ .wrptr, decodeCount_eq_masked b n _ .peek, ok_eq_masked b n _ fun b n => .poke n b,
    decodeCount_eq_masked b n _ .seek, decodeByte_eq_masked b n _ .put, decodeCount_eq_masked b n _ .consume,
    decodeBare_eq_masked b n _ .compact, decodeBare_eq_masked b n _ .rewind, decodeBare_eq_masked b n _ .scan,
    decodeBare_eq_masked b n _ .sync, decodeBare_eq_masked b n _ .stat⟩

/-- A word with a row's OP decodes to the row's command when it selects the row, and is refused otherwise. -/
theorem decode_of_row {row : OpcodeRow} (hrow : row ∈ opcodeMap) {w : Word} (hop : opField w = opField row.1) :
    decode w = if Selects w row then .ok (rowCommand row w) else .error .unusedFieldNonzero := by
  rw [decode, hop, decodeFields_of_row _ _ row hrow]
  simp only [decodeMasked, selects_iff hrow, hop, true_and]

theorem decode_of_selects {row : OpcodeRow} (hrow : row ∈ opcodeMap) {w : Word} (h : Selects w row) :
    decode w = .ok (rowCommand row w) := by
  obtain ⟨hop, -⟩ := (selects_iff hrow w).mp h
  rw [decode_of_row hrow hop, if_pos h]

/-- The reserved OP values are the ones no row has (30_encoding.md R71). -/
theorem reservedOp_iff (op : BitVec 8) : reservedOp op = true ↔ ∀ row ∈ opcodeMap, opField row.1 ≠ op := by
  simp only [reservedOp, Bool.or_eq_true, beq_iff_eq, Bool.and_eq_true, decide_eq_true_eq, opcodeMap, List.mem_cons,
    List.not_mem_nil, or_false, opField, ne_eq, ← BitVec.toNat_inj, BitVec.extractLsb'_toNat, Nat.reducePow,
    forall_eq_or_imp, BitVec.toNat_ofNat, Nat.reduceMod, Nat.reduceShiftRight, Nat.one_mod, forall_eq]
  omega

theorem decodeFields_of_reservedOp {op : BitVec 8} (h : reservedOp op = true) (b : Byte) (n : Half) :
    decodeFields op b n = .error .reservedOp := by
  unfold decodeFields
  split
  case h_15 => rfl
  all_goals exact absurd h (by decide)

theorem decode_of_reservedOp {w : Word} (h : reservedOp (opField w) = true) : decode w = .error .reservedOp :=
  decodeFields_of_reservedOp h ..

/-- A word that decodes selects a row, and its command is that row's. -/
theorem selects_of_decode {w : Word} {i : Instr} (h : decode w = .ok i) :
    ∃ row ∈ opcodeMap, Selects w row ∧ i = rowCommand row w := by
  have hop : ¬ reservedOp (opField w) = true := by
    intro hreserved
    rw [decode_of_reservedOp hreserved] at h
    cases h
  obtain ⟨row, hrow, hopw⟩ : ∃ row ∈ opcodeMap, opField row.1 = opField w := by
    simpa only [reservedOp_iff, not_forall, not_not, exists_prop] using hop
  rw [decode_of_row hrow hopw.symm] at h
  by_cases hselects : Selects w row
  · rw [if_pos hselects] at h
    exact ⟨row, hrow, hselects, (Except.ok.inj h).symm⟩
  · rw [if_neg hselects] at h
    cases h

/-- Settles O17: by a row's mask and match in one direction, by the row of the OP in the other. -/
theorem wordSelectsCommandByMaskAndMatch : Obligations.WordSelectsCommandByMaskAndMatch :=
  ⟨fun _ hrow _ h => decode_of_selects hrow h, fun _ _ h => selects_of_decode h⟩

/-! ### Decode and encode -/

/-- Every command has its row in the opcode map (30_encoding.md R69). -/
theorem exists_row (i : Instr) :
    ∃ row ∈ opcodeMap, opField row.1 = i.opcode ∧ row.2.1 = i.rowMask ∧ row.2.2 i.byteOperand i.countOperand = i := by
  cases i with
  | lenr => exact ⟨opcodeMap[0], List.getElem_mem _, rfl, rfl, rfl⟩
  | lenw => exact ⟨opcodeMap[1], List.getElem_mem _, rfl, rfl, rfl⟩
  | rdptr => exact ⟨opcodeMap[2], List.getElem_mem _, rfl, rfl, rfl⟩
  | wrptr => exact ⟨opcodeMap[3], List.getElem_mem _, rfl, rfl, rfl⟩
  | peek n => exact ⟨opcodeMap[4], List.getElem_mem _, rfl, rfl, rfl⟩
  | poke n b => exact ⟨opcodeMap[5], List.getElem_mem _, rfl, rfl, rfl⟩
  | seek n => exact ⟨opcodeMap[6], List.getElem_mem _, rfl, rfl, rfl⟩
  | put b => exact ⟨opcodeMap[7], List.getElem_mem _, rfl, rfl, rfl⟩
  | consume n => exact ⟨opcodeMap[8], List.getElem_mem _, rfl, rfl, rfl⟩
  | compact => exact ⟨opcodeMap[9], List.getElem_mem _, rfl, rfl, rfl⟩
  | rewind => exact ⟨opcodeMap[10], List.getElem_mem _, rfl, rfl, rfl⟩
  | scan => exact ⟨opcodeMap[11], List.getElem_mem _, rfl, rfl, rfl⟩
  | sync => exact ⟨opcodeMap[12], List.getElem_mem _, rfl, rfl, rfl⟩
  | stat => exact ⟨opcodeMap[13], List.getElem_mem _, rfl, rfl, rfl⟩

theorem encode_selects_row (i : Instr) : encode i &&& i.rowMask = i.rowMatch := by
  cases i with
  | lenr => exact Laws.EncodeSelectsRow.lenr
  | lenw => exact Laws.EncodeSelectsRow.lenw
  | rdptr => exact Laws.EncodeSelectsRow.rdptr
  | wrptr => exact Laws.EncodeSelectsRow.wrptr
  | peek n => exact Laws.EncodeSelectsRow.peek n
  | poke n b => exact Laws.EncodeSelectsRow.poke n b
  | seek n => exact Laws.EncodeSelectsRow.seek n
  | put b => exact Laws.EncodeSelectsRow.put b
  | consume n => exact Laws.EncodeSelectsRow.consume n
  | compact => exact Laws.EncodeSelectsRow.compact
  | rewind => exact Laws.EncodeSelectsRow.rewind
  | scan => exact Laws.EncodeSelectsRow.scan
  | sync => exact Laws.EncodeSelectsRow.sync
  | stat => exact Laws.EncodeSelectsRow.stat

/-- A command is well-formed exactly when its count or offset fits the field N (30_encoding.md R68). -/
theorem wellFormed_iff (i : Instr) : i.WellFormed ↔ i.countOperand < 65536 := by
  cases i <;> simp [Instr.WellFormed, Instr.wellFormed, Instr.countOperand]

@[simp] theorem byteField_encode (i : Instr) : byteField (encode i) = i.byteOperand := byteField_packCommand ..

theorem countField_encode {i : Instr} (h : i.WellFormed) : (countField (encode i)).toNat = i.countOperand := by
  have hfits : i.countOperand < 65536 := (wellFormed_iff i).mp h
  rw [encode, countField_packCommand, BitVec.toNat_ofNat, Nat.mod_eq_of_lt hfits]

/-- Settles O15: the encoding selects the command's own row, whose command has the operands back from the fields. -/
theorem decodeOfEncodeIsIdentity : Obligations.DecodeOfEncodeIsIdentity := by
  intro i hwf
  obtain ⟨row, hrow, hop, hmask, hcommand⟩ := exists_row i
  obtain ⟨hmatch, -⟩ := opcodeMap_shape row hrow
  have hselects : Selects (encode i) row := by
    rw [Selects, hmatch, hop, hmask]
    exact encode_selects_row i
  rw [decode_of_selects hrow hselects, rowCommand, byteField_encode, countField_encode hwf, hcommand]

theorem decodeBare_eq_ok {b : Byte} {n : Half} {i j : Instr} :
    decodeBare b n i = .ok j ↔ (b = 0 ∧ n = 0) ∧ i = j := by
  unfold decodeBare; split <;> simp_all

theorem decodeCount_eq_ok {b : Byte} {i j : Instr} : decodeCount b i = .ok j ↔ b = 0 ∧ i = j := by
  unfold decodeCount; split <;> simp_all

theorem decodeByte_eq_ok {n : Half} {i j : Instr} : decodeByte n i = .ok j ↔ n = 0 ∧ i = j := by
  unfold decodeByte; split <;> simp_all

/-- The command decoded from three fields has them as its OP and its operands: none is dropped (30_encoding.md R72). -/
theorem fields_of_decodeFields {op : BitVec 8} {b : Byte} {n : Half} {i : Instr} (h : decodeFields op b n = .ok i) :
    i.opcode = op ∧ i.byteOperand = b ∧ i.countOperand = n.toNat := by
  unfold decodeFields at h
  split at h
  case h_5 | h_7 | h_9 =>
    obtain ⟨rfl, rfl⟩ := decodeCount_eq_ok.mp h
    exact ⟨rfl, rfl, rfl⟩
  case h_6 =>
    obtain rfl := Except.ok.inj h
    exact ⟨rfl, rfl, rfl⟩
  case h_8 =>
    obtain ⟨rfl, rfl⟩ := decodeByte_eq_ok.mp h
    exact ⟨rfl, rfl, rfl⟩
  case h_15 => cases h
  all_goals
    obtain ⟨⟨rfl, rfl⟩, rfl⟩ := decodeBare_eq_ok.mp h
    exact ⟨rfl, rfl, rfl⟩

/-- Settles O16: the command's OP and operands are the word's three fields. -/
theorem encodeOfDecodeIsIdentity : Obligations.EncodeOfDecodeIsIdentity := by
  intro w i h
  obtain ⟨hop, hbyte, hcount⟩ := fields_of_decodeFields h
  refine ⟨(wellFormed_iff i).mpr (hcount ▸ (countField w).isLt), ?_⟩
  rw [encode, hop, hbyte, hcount, BitVec.ofNat_toNat, BitVec.setWidth_eq, packCommand_fields]

/-! ### Words that are no command -/

namespace Machine

theorem refused_afterFault (c : Cause) (s : State) : Refused c s (s.afterFault c) :=
  ⟨rfl, rfl, fun _ => rfl, ⟨rfl, rfl⟩, rfl, rfl, rfl, rfl⟩

/-- A word that does not decode is refused with ILLEGAL_CMD (60_exceptions.md R183). -/
theorem perform_of_decode_error {w : Word} {e : DecodeError} (h : decode w = .error e) (s : State) :
    ∃ t, perform w s = .next t ∧ Refused .illegalCmd s t :=
  ⟨_, perform_eq_next_iff.mpr (.inl ⟨e, h, rfl⟩), refused_afterFault ..⟩

end Machine

open Machine

/-- Settles O18: no arm of the decoder has a reserved OP, and the reserved OPs are the ones no row has. -/
theorem reservedOpcodeIsIllegal : Obligations.ReservedOpcodeIsIllegal := by
  refine ⟨fun w s h => ?_, reservedOp_iff, rfl⟩
  have hdecode := decode_of_reservedOp h
  exact ⟨hdecode, perform_of_decode_error hdecode s⟩

/-- Two rows that select one word have one OP, and so one match. -/
theorem match_eq_of_selects {row row' : OpcodeRow} (hrow : row ∈ opcodeMap) (hrow' : row' ∈ opcodeMap) {w : Word}
    (h : Selects w row) (h' : Selects w row') : row.1 = row'.1 := by
  obtain ⟨hop, -⟩ := (selects_iff hrow w).mp h
  obtain ⟨hop', -⟩ := (selects_iff hrow' w).mp h'
  rw [(opcodeMap_shape row hrow).1, (opcodeMap_shape row' hrow').1, ← hop, hop']

/-- Settles O19: the row of the word's OP refuses the word, and a word selects one row at most. -/
theorem unusedFieldMustBeZero : Obligations.UnusedFieldMustBeZero := by
  refine ⟨fun row hrow w s hop hmask => ?_, fun row hrow row' hrow' w h h' => match_eq_of_selects hrow hrow' h h'⟩
  have hdecode : decode w = .error .unusedFieldNonzero := by rw [decode_of_row hrow hop, if_neg hmask]
  exact ⟨hdecode, perform_of_decode_error hdecode s⟩

/-- Settles O20: each word is the encoding of its command. -/
theorem writtenWordsDecode : Obligations.WrittenWordsDecode :=
  have h := decodeOfEncodeIsIdentity
  ⟨h .lenr rfl, h (.peek 1) rfl, h (.poke 1 0xC8) rfl, h (.seek 14) rfl, h (.put 0xAA) rfl, h (.consume 6) rfl,
    h .scan rfl, h .sync rfl, h .stat rfl⟩

end Sys2Proof

namespace Sys2Proof.Machine

/-! ### The fields of a response word -/

section ResponseFields

variable (res : ResultClass) (seq : BitVec 2) (val : Nat)

/-- A field of a response word as a number (30_encoding.md R70). -/
theorem toNat_extractLsb'_doneWord (k len : Nat) :
    ((doneWord res seq val).extractLsb' k len).toNat =
      (res.code.toNat * 16777216 + seq.toNat * 65536 + val % 65536) / 2 ^ k % 2 ^ len := by
  rw [BitVec.extractLsb'_toNat, doneWord_toNat, Nat.shiftRight_eq_div_pow]

@[simp] theorem rspCause_doneWord : rspCause (doneWord res seq val) = 0 := by
  have hres := res.code.isLt
  have hseq := seq.isLt
  apply BitVec.eq_of_toNat_eq
  rw [rspCause, toNat_extractLsb'_doneWord]
  change _ = 0
  omega

@[simp] theorem rspSeq_doneWord : rspSeq (doneWord res seq val) = seq := by
  have hseq := seq.isLt
  apply BitVec.eq_of_toNat_eq
  rw [rspSeq, toNat_extractLsb'_doneWord]
  omega

@[simp] theorem rspVal_doneWord : (rspVal (doneWord res seq val)).toNat = val % 65536 := by
  rw [rspVal, toNat_extractLsb'_doneWord]
  omega

/-- The bits between the fields are zero. -/
theorem doneWord_gaps :
    (doneWord res seq val).extractLsb' 26 2 = 0 ∧ (doneWord res seq val).extractLsb' 18 6 = 0 := by
  have hres := res.code.isLt
  have hseq := seq.isLt
  constructor
  all_goals
    apply BitVec.eq_of_toNat_eq
    rw [toNat_extractLsb'_doneWord]
    change _ = 0
    omega

end ResponseFields

theorem refusedWord_toNat (c : Cause) : (refusedWord c).toNat = 0x80000000 + 0x10000000 * c.code.toNat := by
  cases c <;> rfl

/-- Settles O21, field by field. -/
theorem responseWordFieldsReadBack : Obligations.ResponseWordFieldsReadBack := by
  refine ⟨fun res seq val hval => ?_, refusedWord_toNat⟩
  have hread : (rspVal (doneWord res seq val)).toNat = val := by rw [rspVal_doneWord, Nat.mod_eq_of_lt hval]
  exact ⟨rspRefused_doneWord .., rspCause_doneWord .., rspRes_doneWord .., rspSeq_doneWord .., hread, doneWord_gaps ..⟩

/-! ### The four markers -/

/-- The three conjuncts of the predicate (30_encoding.md R61). -/
theorem isMarker_iff (m : Half) :
    isMarker m = true ↔ m.extractLsb' 0 12 = 0x801#12 ∧ m.getLsbD 12 = m.getLsbD 13 ∧ m.getLsbD 14 = m.getLsbD 15 := by
  simp [isMarker, syncPattern, and_assoc]

/-- The fields of a marker as numbers; `t` is its top four bits. -/
theorem toNat_of_isMarker {m : Half} (h : isMarker m = true) :
    ∃ t < 16, m.toNat = 4096 * t + 0x801 ∧ t % 2 = t / 2 % 2 ∧ t / 4 % 2 = t / 8 % 2 := by
  obtain ⟨hsync, hA, hB⟩ := (isMarker_iff m).mp h
  have hsync := congrArg BitVec.toNat hsync
  simp only [BitVec.extractLsb'_toNat, Nat.shiftRight_zero, BitVec.toNat_ofNat] at hsync
  simp only [BitVec.getLsbD, Nat.testBit_eq_decide_div_mod_eq, decide_eq_decide] at hA hB
  have hlt := m.isLt
  exact ⟨m.toNat / 4096, by omega, by omega, by omega, by omega⟩

theorem isMarker_iff_four (m : Half) :
    isMarker m = true ↔ m = 0x0801#16 ∨ m = 0x3801#16 ∨ m = 0xC801#16 ∨ m = 0xF801#16 := by
  constructor
  · intro h
    obtain ⟨t, ht, hm, hA, hB⟩ := toNat_of_isMarker h
    have hfour : ∀ t < 16, t % 2 = t / 2 % 2 → t / 4 % 2 = t / 8 % 2 → t = 0 ∨ t = 3 ∨ t = 12 ∨ t = 15 := by
      decide
    simp only [← BitVec.toNat_inj, hm]
    rcases hfour t ht hA hB with rfl | rfl | rfl | rfl <;> simp
  · rintro (rfl | rfl | rfl | rfl) <;> rfl

/-- Settles O22. -/
theorem markersAreExactlyFourValues : Obligations.MarkersAreExactlyFourValues :=
  fun m => ⟨isMarker_iff m, isMarker_iff_four m⟩

theorem isMarker_markerOf (q : BitVec 2) : isMarker (markerOf q) = true := by revert q; decide

theorem seqOf_markerOf (q : BitVec 2) : seqOf (markerOf q) = q := by revert q; decide

/-- The two bytes of a 16-bit number in the stream read back as it (30_encoding.md R64). -/
theorem littleEndian_marker_bytes (m : Half) : littleEndian (markerFirst m) (markerSecond m) = m := by
  apply BitVec.eq_of_toNat_eq
  rw [littleEndian_toNat, markerFirst, markerSecond, BitVec.extractLsb'_toNat, BitVec.extractLsb'_toNat,
    Nat.shiftRight_eq_div_pow, Nat.shiftRight_eq_div_pow]
  omega

theorem markerFirst_markerOf (q : BitVec 2) : markerFirst (markerOf q) = 0x01#8 := by revert q; decide

theorem markerOf_seqOf {m : Half} (h : isMarker m = true) : markerOf (seqOf m) = m := by
  obtain rfl | rfl | rfl | rfl := (isMarker_iff_four m).mp h <;> rfl

/-- SeqOf(m) = {m[14], m[12]} (30_encoding.md R62). -/
theorem seqOf_bits (m : Half) : (seqOf m).getLsbD 0 = m.getLsbD 12 ∧ (seqOf m).getLsbD 1 = m.getLsbD 14 := by
  simp only [seqOf, BitVec.getLsbD_append, BitVec.getLsbD_extractLsb']
  simp

/-- Settles O23: the values of MarkerOf, and each inverse. -/
theorem markerOfAndSeqOfAreInverse : Obligations.MarkerOfAndSeqOfAreInverse :=
  ⟨⟨rfl, rfl, rfl, rfl⟩,
    fun q => ⟨isMarker_markerOf q, seqOf_markerOf q, littleEndian_marker_bytes _, markerFirst_markerOf q⟩,
    fun m h => ⟨markerOf_seqOf h, seqOf_bits m⟩⟩

/-! ### A raw frame at the start of the unread region -/

@[simp] theorem length_frameBytes (f : Frame) : (frameBytes f).length = markerSize + f.payload.length + 1 := by
  simp only [frameBytes, rawFrame, markerSize, List.length_cons, List.length_append, List.length_nil]
  omega

/-- The scan stops at position 0 of a raw frame, whatever stands after its marker (41_scanner.md R133). -/
theorem scan_frameBytes_append (f : Frame) (rest : List Byte) :
    scan (frameBytes f ++ rest) = ⟨true, (frameBytes f ++ rest).length, f.seq⟩ := by
  have hmarker : isMarker (littleEndian (markerFirst (markerOf f.seq)) (markerSecond (markerOf f.seq))) = true := by
    rw [littleEndian_marker_bytes, isMarker_markerOf]
  rw [frameBytes, rawFrame, List.cons_append, List.cons_append, scan_marker _ hmarker, littleEndian_marker_bytes,
    seqOf_markerOf]
  rfl

theorem syncClass_of_found {r : ScanResult} {frameSize : Nat} (hfound : r.found = true) (hrem : frameSize ≤ r.rem) :
    syncClass r frameSize = .found := by
  simp [syncClass, hfound, Nat.not_lt.mpr hrem]

/-- A scan that keeps the whole unread region drops nothing. -/
theorem dropScanned_of_rem_eq {s : State} (h : (scan s.unread).rem = s.lenr) : s.dropScanned = s := by
  rw [State.dropScanned, h, Nat.sub_self]
  rfl

theorem State.unreadInside_of_wr_le {s : State} (h : s.wr ≤ s.build.capacity) : s.UnreadInside := by
  unfold State.UnreadInside State.lenr
  omega

/-- Settles O46: the scan stops at once with a whole frame left, so SYNC answers FRAME and drops nothing. -/
theorem alignedFrameIsReportedWhateverItHolds : Obligations.AlignedFrameIsReportedWhateverItHolds := by
  intro s f rest hwr hpayload hunread
  have hlenr : (frameBytes f ++ rest).length = s.lenr := by rw [← hunread, length_unread]
  have hscan : scan s.unread = ⟨true, s.lenr, f.seq⟩ := by rw [hunread, scan_frameBytes_append, hlenr]
  have hframe : s.frameSize ≤ s.lenr := by
    rw [List.length_append, length_frameBytes, hpayload] at hlenr
    exact hlenr ▸ Nat.le_add_right ..
  have houtcome : s.syncOutcome = .found := by
    rw [State.syncOutcome, hscan]
    exact syncClass_of_found rfl hframe
  have hkeep : s.synced = s := (State.synced_of_found houtcome).trans (dropScanned_of_rem_eq (by rw [hscan]))
  have hanswer : answerOf s .sync = doneWord .found f.seq s.lenr := by
    simp only [answerOf, State.syncSeq, houtcome, hscan]
  refine ⟨_, execSync_of_unreadInside (State.unreadInside_of_wr_le hwr), ?_⟩
  rw [hkeep, hanswer]
  exact onlyAnswered_answer s _

/-! ### Command lists -/

theorem execAll_append (l m : List Instr) (s : State) : execAll (l ++ m) s = andThen (execAll l s) (execAll m) := by
  induction l generalizing s with
  | nil => rfl
  | cons i l ih =>
    rw [List.cons_append, execAll, execAll]
    cases exec i s with
    | next u => exact ih u
    | fault f => rfl
    | refused q => rfl

theorem execAll_append_of_next {l m : List Instr} {s u : State} (h : execAll l s = .next u) :
    execAll (l ++ m) s = execAll m u := by
  rw [execAll_append, h, andThen_next]

/-- The first cause sticks (60_exceptions.md R182). -/
theorem latchCause_latchCause (c d : Cause) (f : BitVec 3) : latchCause c (latchCause d f) = latchCause d f := by
  have hcode := d.code_ne_zero
  unfold latchCause
  split_ifs <;> simp_all

/-- The store and the cursors are untouched, and so are the surroundings; the fault code and the responses may differ. -/
def SameContents (s t : State) : Prop := t.mem = s.mem ∧ SameCursors s t ∧ SameSurround s t

theorem sameContents_afterFault (s : State) (c : Cause) : SameContents s (s.afterFault c) :=
  ⟨rfl, ⟨rfl, rfl⟩, rfl, rfl, rfl⟩

/-- Commands that are refused one after another change only `fcause`, which keeps the first cause: a refusal moves nothing,
so what is refused at the start is refused at its turn. -/
theorem execAll_of_refused {c : Cause} {l : List Instr} {s : State} (hl : ∀ i ∈ l, refusalOf s i = some c)
    (hne : l ≠ []) :
    ∃ t, execAll l s = .next t ∧ SameContents s t ∧ t.fcause = latchCause c s.fcause := by
  induction l generalizing s with
  | nil => contradiction
  | cons i l ih =>
    have hfirst := execAll_cons_of_next (rest := l) (exec_of_refused (hl i List.mem_cons_self))
    by_cases hlast : l = []
    · subst hlast
      exact ⟨s.afterFault c, hfirst, sameContents_afterFault s c, rfl⟩
    · have hrest : ∀ j ∈ l, refusalOf (s.afterFault c) j = some c := fun j hj =>
        (refusalOf_afterFault s c j).trans (hl j (List.mem_cons_of_mem i hj))
      obtain ⟨t, hrun, hsame, hfcause⟩ := ih hrest hlast
      exact ⟨t, hfirst.trans hrun, hsame, hfcause.trans (latchCause_latchCause c c s.fcause)⟩

/-! ### APPEND and APPENDRAW, byte by byte -/

/-- The bytes `bs` stand at the old write cursor plus `k`, and every other byte is as before. -/
structure Stored (s : State) (k : Nat) (bs : List Byte) (t : State) : Prop where
  bytes : Memory.bytesFrom t.draw t.mem (s.wr + k) bs.length = bs
  others : ∀ i, i < s.wr + k ∨ s.wr + k + bs.length ≤ i → t.readByte i = s.readByte i
  rd_eq : t.rd = s.rd
  fcause_eq : t.fcause = s.fcause
  surround : SameSurround s t

theorem Stored.nil (s : State) (k : Nat) : Stored s k [] s := ⟨rfl, fun _ _ => rfl, rfl, rfl, rfl, rfl, rfl⟩

/-- One byte stored, then the rest after it. `u` has the byte `b` and `k'` counts from its write cursor. -/
theorem Stored.cons {s u t : State} {k k' : Nat} {b : Byte} {bs : List Byte} (hfirst : Stored s k [b] u)
    (hk : u.wr + k' = s.wr + k + 1) (hrest : Stored u k' bs t) : Stored s k (b :: bs) t where
  bytes := by
    have hread : t.readByte (s.wr + k) = b := by
      rw [hrest.others _ (.inl (by omega))]
      simpa [Memory.bytesFrom, State.readByte] using hfirst.bytes
    have htail : Memory.bytesFrom t.draw t.mem (s.wr + k + 1) bs.length = bs := hk ▸ hrest.bytes
    rw [List.length_cons, Memory.bytesFrom, htail]
    exact congrArg (· :: bs) hread
  others i hi := by
    rw [List.length_cons] at hi
    rw [hrest.others i (by omega), hfirst.others i (by simp only [List.length_singleton]; omega)]
  rd_eq := hrest.rd_eq.trans hfirst.rd_eq
  fcause_eq := hrest.fcause_eq.trans hfirst.fcause_eq
  surround := by
    obtain ⟨hbuild, hdraw, hinput⟩ := hfirst.surround
    obtain ⟨hbuild', hdraw', hinput'⟩ := hrest.surround
    exact ⟨hbuild'.trans hbuild, hdraw'.trans hdraw, hinput'.trans hinput⟩

/-- A write at the write cursor plus `k` stores its byte there. -/
theorem Stored.of_write {s t : State} {k : Nat} {b : Byte} (hmem : t.mem = Memory.write s.mem (s.wr + k) b)
    (hrd : t.rd = s.rd) (hfcause : t.fcause = s.fcause) (hsurround : SameSurround s t) : Stored s k [b] t where
  bytes := by simp [Memory.bytesFrom, hmem]
  others i hi := by
    rw [List.length_singleton] at hi
    obtain ⟨-, hdraw, -⟩ := hsurround
    rw [State.readByte, hmem, hdraw, Memory.read_write_other _ _ _ (by omega)]
    rfl
  rd_eq := hrd
  fcause_eq := hfcause
  surround := hsurround

theorem Stored.lenw_eq {s t : State} {k : Nat} {bs : List Byte} (h : Stored s k bs t) :
    t.lenw = s.build.capacity - t.wr :=
  congrArg (·.capacity - t.wr) h.surround.1

theorem exec_put_of_free {s : State} (h : 0 < s.lenw) (b : Byte) :
    ∃ t, exec (.put b) s = .next t ∧ Stored s 0 [b] t ∧ t.wr = s.wr + 1 :=
  ⟨_, exec_of_done (if_neg h.ne') trivial, .of_write rfl rfl rfl ⟨rfl, rfl, rfl⟩, rfl⟩

theorem exec_poke_of_inRange {s : State} {k : Nat} (h : s.pokeInRange k) (b : Byte) :
    ∃ t, exec (.poke k b) s = .next t ∧ Stored s k [b] t ∧ t.wr = s.wr :=
  ⟨_, exec_of_done (if_pos h) trivial, .of_write rfl rfl rfl ⟨rfl, rfl, rfl⟩, rfl⟩

/-- PUTs that fit store their bytes and advance the write cursor past them (40_buffer.md R107). -/
theorem execAll_appendCommands_of_fits {bs : List Byte} {s : State} (h : bs.length ≤ s.lenw) :
    ∃ t, execAll (appendCommands bs) s = .next t ∧ Stored s 0 bs t ∧ t.wr = s.wr + bs.length := by
  induction bs generalizing s with
  | nil => exact ⟨s, rfl, Stored.nil s 0, rfl⟩
  | cons b bs ih =>
    rw [List.length_cons] at h ⊢
    obtain ⟨u, hput, hfirst, huwr⟩ := exec_put_of_free (Nat.zero_lt_of_lt h) b
    have hfits : bs.length ≤ u.lenw := by
      rw [hfirst.lenw_eq, huwr]
      unfold State.lenw at h
      omega
    obtain ⟨t, hrun, hrest, htwr⟩ := ih hfits
    exact ⟨t, (execAll_cons_of_next hput).trans hrun, hfirst.cons (k' := 0) huwr hrest, by omega⟩

/-- POKEs that fit store their bytes and move no cursor (40_buffer.md R105). -/
theorem execAll_pokesFrom_of_fits {k : Nat} {bs : List Byte} {s : State} (h : k + bs.length ≤ s.lenw) :
    ∃ t, execAll (pokesFrom k bs) s = .next t ∧ Stored s k bs t ∧ t.wr = s.wr := by
  induction bs generalizing k s with
  | nil => exact ⟨s, rfl, Stored.nil s k, rfl⟩
  | cons b bs ih =>
    rw [List.length_cons] at h
    obtain ⟨u, hpoke, hfirst, huwr⟩ := exec_poke_of_inRange (show k < s.lenw by omega) b
    have hfits : k + 1 + bs.length ≤ u.lenw := by
      rw [hfirst.lenw_eq, huwr, Nat.add_assoc, Nat.add_comm 1]
      exact h
    obtain ⟨t, hrun, hrest, htwr⟩ := ih hfits
    exact ⟨t, (execAll_cons_of_next hpoke).trans hrun, hfirst.cons (by rw [huwr, Nat.add_assoc]) hrest, htwr.trans huwr⟩

theorem pokesFrom_append (k : Nat) (bs cs : List Byte) :
    pokesFrom k (bs ++ cs) = pokesFrom k bs ++ pokesFrom (k + bs.length) cs := by
  induction bs generalizing k with
  | nil => rfl
  | cons b bs ih => simp [pokesFrom, ih, Nat.add_assoc, Nat.add_comm 1]

theorem mem_pokesFrom {k : Nat} {bs : List Byte} {i : Instr} (h : i ∈ pokesFrom k bs) :
    ∃ n b, i = .poke n b ∧ k ≤ n := by
  induction bs generalizing k with
  | nil => cases h
  | cons b bs ih =>
    rcases List.mem_cons.mp h with rfl | h
    · exact ⟨k, b, rfl, le_rfl⟩
    · obtain ⟨n, b', rfl, hn⟩ := ih h
      exact ⟨n, b', rfl, by omega⟩

/-! ### More bytes than fit -/

section Overrun

variable {bs : List Byte} {s : State} (h : s.lenw < bs.length)
include h

/-- APPEND stores the bytes that fit; each PUT after them is refused (30_encoding.md R75). -/
theorem execAll_appendCommands_of_overrun :
    ∃ t, execAll (appendCommands bs) s = .next t ∧ t.wr = s.wr + s.lenw ∧
      Memory.bytesFrom t.draw t.mem s.wr s.lenw = bs.take s.lenw ∧ t.fcause = latchCause .putFull s.fcause := by
  have hlen : (bs.take s.lenw).length = s.lenw := List.length_take_of_le h.le
  obtain ⟨u, hfits, hstored, huwr⟩ := execAll_appendCommands_of_fits (bs := bs.take s.lenw) hlen.le
  have hfull : u.lenw = 0 := by
    rw [hstored.lenw_eq, huwr, hlen]
    unfold State.lenw
    omega
  have hrefused : ∀ i ∈ appendCommands (bs.drop s.lenw), refusalOf u i = some .putFull := by
    intro i hi
    obtain ⟨b, -, rfl⟩ := List.mem_map.mp hi
    exact if_pos hfull
  have hne : appendCommands (bs.drop s.lenw) ≠ [] := by simp [appendCommands, h]
  obtain ⟨t, hrun, ⟨hmem, ⟨-, hwr⟩, -, hdraw, -⟩, hfcause⟩ := execAll_of_refused hrefused hne
  refine ⟨t, ?_, by rw [hwr, huwr, hlen], ?_, by rw [hfcause, hstored.fcause_eq]⟩
  · rw [← List.take_append_drop s.lenw bs, appendCommands, List.map_append]
    exact (execAll_append_of_next hfits).trans hrun
  · have hbytes := hstored.bytes
    rwa [hlen, Nat.add_zero, ← hmem, ← hdraw] at hbytes

/-- APPENDRAW moves no cursor: the POKEs past the free space are refused, and then the SEEK (30_encoding.md R75). -/
theorem execAll_appendRawCommands_of_overrun :
    ∃ t, execAll (appendRawCommands bs) s = .next t ∧ SameCursors s t ∧ t.fcause = latchCause .pokeRange s.fcause := by
  have hlen : (bs.take s.lenw).length = s.lenw := List.length_take_of_le h.le
  obtain ⟨u, hfits, hstored, huwr⟩ := execAll_pokesFrom_of_fits (k := 0) (bs := bs.take s.lenw) (s := s) (by omega)
  have hlenw : u.lenw = s.lenw := by
    rw [hstored.lenw_eq, huwr]
    rfl
  have hrefused : ∀ i ∈ pokesFrom s.lenw (bs.drop s.lenw), refusalOf u i = some .pokeRange := by
    intro i hi
    obtain ⟨n, b, rfl, hn⟩ := mem_pokesFrom hi
    exact if_neg (show ¬ n < u.lenw by omega)
  have hne : pokesFrom s.lenw (bs.drop s.lenw) ≠ [] := by
    rw [List.drop_eq_getElem_cons h, pokesFrom]
    exact List.cons_ne_nil _ _
  obtain ⟨v, hpokes, ⟨-, ⟨hrd, hwr⟩, ⟨hbuild, -⟩⟩, hfcause⟩ := execAll_of_refused hrefused hne
  have hvlenw : v.lenw = u.lenw := by rw [State.lenw, hbuild, hwr, State.lenw]
  have hseek : exec (.seek bs.length) v = .next (v.afterFault .seekOverrun) :=
    exec_of_refused (if_neg (show ¬ bs.length ≤ v.lenw by omega))
  refine ⟨v.afterFault .seekOverrun, ?_, ⟨hrd.trans hstored.rd_eq, hwr.trans huwr⟩, ?_⟩
  · have hsplit : pokesFrom 0 bs = pokesFrom 0 (bs.take s.lenw) ++ pokesFrom s.lenw (bs.drop s.lenw) := by
      conv_lhs => rw [← List.take_append_drop s.lenw bs, pokesFrom_append, hlen, Nat.zero_add]
    rw [appendRawCommands, hsplit]
    exact (execAll_append_of_next ((execAll_append_of_next hfits).trans hpokes)).trans (execAll_cons_of_next hseek)
  · rw [State.afterFault_fcause, hfcause, hstored.fcause_eq, latchCause_latchCause]

end Overrun

/-- Settles O55: the two overruns, from a block with no fault. -/
theorem appendAndAppendRawDifferUnderOverrun : Obligations.AppendAndAppendRawDifferUnderOverrun := by
  intro bs s hwr hover hfcause
  obtain ⟨t, happend, htwr, hbytes, htfcause⟩ := execAll_appendCommands_of_overrun hover
  obtain ⟨u, hraw, ⟨hurd, huwr⟩, hufcause⟩ := execAll_appendRawCommands_of_overrun hover
  have hcapacity : s.wr + s.lenw = s.build.capacity := Nat.add_sub_of_le hwr
  rw [hfcause] at htfcause hufcause
  exact ⟨t, u, happend, hraw, htwr.trans hcapacity, hbytes, htfcause, huwr, hurd, hufcause⟩

end Sys2Proof.Machine

/-! SUPPORT. 40_buffer.md: what each buffer command answers and leaves (R100 to R110), and the host's protocols over
them (R111). -/

namespace Sys2Proof.Machine

/-! ### Refusals, and field VAL read back -/

/-- A command out of its range is refused, and changes nothing but `fcause` (60_exceptions.md R181). -/
theorem exec_refuses {s : State} {i : Instr} {c : Cause} (h : refusalOf s i = some c) :
    ∃ t, exec i s = .next t ∧ Refused c s t :=
  ⟨_, exec_of_refused h, refused_afterFault c s⟩

/-- A value that fits field VAL is read back by the host (30_encoding.md R70). -/
theorem rspVal_answer_of_lt (s : State) {val : Nat} (h : val < 65536) :
    (rspVal (s.answer (doneWord .nothing 0 val)).lastResponse).toNat = val := by
  rw [State.answer_lastResponse, rspVal_doneWord, Nat.mod_eq_of_lt h]

/-- No number of bytes above C is answered, and C fits field VAL (00_scope.md R8). -/
theorem State.Inv.lt_of_le_capacity {s : State} (h : s.Inv) {val : Nat} (hval : val ≤ s.build.capacity) :
    val < 65536 := by
  obtain ⟨-, hcap⟩ := h.legal
  omega

/-! ### The queries of a count or a cursor -/

/-- A query that answers a number of bytes: the block is as before, and the host reads the number back. -/
theorem answers_count {i : Instr} {s : State} {val : Nat}
    (hexec : exec i s = .next (s.answer (doneWord .nothing 0 val))) (hval : s.Inv → val ≤ s.build.capacity) :
    ∃ t, exec i s = .next t ∧ OnlyAnswered s t (doneWord .nothing 0 val) ∧
      (s.Inv → (rspVal t.lastResponse).toNat = val) :=
  ⟨_, hexec, onlyAnswered_answer s _, fun hinv => rspVal_answer_of_lt s (hinv.lt_of_le_capacity (hval hinv))⟩

/-- Settles O28: under the invariant the unread bytes are at most C. -/
theorem lenrAnswersUnreadCount : Obligations.LenrAnswersUnreadCount :=
  fun _ => answers_count rfl fun hinv => hinv.cursors.lenr_le_capacity

/-- Settles O30: under the invariant the read cursor is at most C. -/
theorem rdptrAnswersReadCursor : Obligations.RdptrAnswersReadCursor :=
  fun _ => answers_count rfl fun hinv => hinv.rd_le_wr.trans hinv.wr_le_capacity

/-- Settles O31: under the invariant the write cursor is at most C. -/
theorem wrptrAnswersWriteCursor : Obligations.WrptrAnswersWriteCursor :=
  fun _ => answers_count rfl fun hinv => hinv.wr_le_capacity

/-- LENW in every state (40_buffer.md R101). -/
theorem exec_lenw (s : State) : exec .lenw s = .next (s.answer (doneWord .nothing 0 s.lenw)) :=
  exec_of_done rfl trivial

/-- Settles O29: the free space does not depend on the read cursor. -/
theorem lenwAnswersFreeCount : Obligations.LenwAnswersFreeCount := by
  intro s
  refine ⟨_, exec_lenw s, onlyAnswered_answer s _, fun hinv => ?_, fun r => ⟨_, exec_lenw (s.setRd r), ?_⟩⟩
  · exact rspVal_answer_of_lt s (hinv.lt_of_le_capacity (Nat.sub_le ..))
  · rw [State.answer_lastResponse, State.answer_lastResponse, State.setRd_lenw]

/-! ### PEEK -/

/-- The index of an unread byte is in the store (20_memory.md R47). -/
theorem peekIndex_lt_capacity {s : State} {n : Nat} (h : s.peekInRange n) (hwr : s.wr ≤ s.build.capacity) :
    s.peekIndex n < s.build.capacity := by
  simp only [State.peekInRange, State.lenr, State.peekIndex] at h ⊢
  omega

/-- PEEK N within the unread region answers the byte (40_buffer.md R104). -/
theorem exec_peek_of_inRange {s : State} {n : Nat} (h : s.peekInRange n) (hwr : s.wr ≤ s.build.capacity) :
    exec (.peek n) s = .next (s.answer (doneWord .nothing 0 (s.readByte (s.peekIndex n)).toNat)) :=
  exec_of_done (if_pos h) (peekIndex_lt_capacity h hwr)

/-- Settles O33: a byte always fits field VAL. -/
theorem peekAnswersUnreadByteOrIsRefused : Obligations.PeekAnswersUnreadByteOrIsRefused := by
  intro n s
  constructor
  · intro hrange hwr
    have hbyte := (s.readByte (s.rd + n)).isLt
    exact ⟨_, exec_peek_of_inRange hrange hwr, onlyAnswered_answer s _, rspVal_answer_of_lt s (by omega)⟩
  · intro hout
    exact exec_refuses (if_neg hout.not_gt)

/-! ### POKE, SEEK and PUT -/

/-- A byte written at or past the write cursor is not unread (40_buffer.md R105). -/
theorem setMem_write_unread {s : State} {a : Nat} (b : Byte) (h : s.wr ≤ a) :
    (s.setMem (Memory.write s.mem a b)).unread = s.unread :=
  (unread_eq_iff (s := s) (t := s.setMem (Memory.write s.mem a b)) rfl rfl).mpr fun _ _ hj =>
    Memory.read_write_other s.draw s.mem b (hj.trans_le h).ne

/-- Settles O34: the write is at the index of the offset, past the unread region. -/
theorem pokeWritesFreeByteOrIsRefused : Obligations.PokeWritesFreeByteOrIsRefused := by
  intro n b s
  constructor
  · intro hrange
    have hunread := setMem_write_unread b (show s.wr ≤ s.pokeIndex n from Nat.le_add_right ..)
    exact ⟨_, exec_of_done (if_pos hrange) trivial, rfl, Memory.read_write_self ..,
      fun i hi => Memory.read_write_other s.draw s.mem b hi, ⟨rfl, rfl⟩, hunread, rfl, ⟨rfl, rfl, rfl⟩, rfl⟩
  · intro hout
    exact exec_refuses (if_neg hout.not_gt)

/-- Advancing the write cursor appends what stands there to the unread list (40_buffer.md R106). -/
theorem setWr_unread {s : State} (h : s.rd ≤ s.wr) (n : Nat) :
    (s.setWr (s.wr + n)).unread = s.unread ++ Memory.bytesFrom s.draw s.mem s.wr n := by
  have hlenr : (s.setWr (s.wr + n)).lenr = s.lenr + n := Nat.sub_add_comm h
  have hend : s.rd + s.lenr = s.wr := Nat.add_sub_of_le h
  rw [State.unread, hlenr]
  refine (Memory.bytesFrom_append ..).trans ?_
  rw [State.setWr_rd, hend]
  rfl

/-- Settles O35: the store is kept, so the bytes that join the unread region are the ones that stood there. -/
theorem seekAdvancesWriteCursorOrIsRefused : Obligations.SeekAdvancesWriteCursorOrIsRefused := by
  intro n s
  constructor
  · intro hrange
    exact ⟨_, exec_seek_of_inRange hrange, rfl, rfl, rfl, fun _ => rfl, fun hrd => setWr_unread hrd n, rfl,
      ⟨rfl, rfl, rfl⟩, rfl⟩
  · intro hout
    exact exec_refuses (if_neg hout.not_ge)

/-- POKE 0, B and then SEEK 1 with a byte free leave PUT B's store and cursors, with two answers
(40_buffer.md R107). -/
theorem execAll_poke_seek_of_free {s : State} (h : 0 < s.lenw) (b : Byte) :
    execAll [.poke 0 b, .seek 1] s =
      .next (((carriedOut s (.put b)).answer (doneWord .nothing 0 0)).answer (doneWord .nothing 0 0)) := by
  have hpoke := exec_of_done (s := s) (i := .poke 0 b) (if_pos h) trivial
  have hrange : ((carriedOut s (.poke 0 b)).answer (doneWord .nothing 0 0)).seekInRange 1 := h
  exact (execAll_cons_of_next hpoke).trans (execAll_cons_of_next (exec_seek_of_inRange hrange))

/-- Settles O36: PUT's write is POKE's at offset 0, and its cursor move is SEEK's by 1. -/
theorem putAppendsOneByteOrIsRefused : Obligations.PutAppendsOneByteOrIsRefused := by
  intro b s
  constructor
  · intro hfree
    have hput := exec_of_done (s := s) (i := .put b) (if_neg (Nat.ne_zero_of_lt hfree)) trivial
    exact ⟨_, _, hput, Memory.read_write_self .., rfl, fun i hi => Memory.read_write_other s.draw s.mem b hi, rfl,
      rfl, rfl, ⟨rfl, rfl, rfl⟩, rfl, execAll_poke_seek_of_free hfree b, fun _ => rfl, ⟨rfl, rfl⟩, rfl⟩
  · intro hfull
    exact exec_refuses (if_pos hfull)

/-! ### CONSUME, COMPACT and REWIND -/

/-- Advancing the read cursor drops the first unread bytes (40_buffer.md R108). -/
theorem setRd_unread (s : State) (n : Nat) : (s.setRd (s.rd + n)).unread = s.unread.drop n := by
  have hlenr : (s.setRd (s.rd + n)).lenr = s.lenr - n := Nat.sub_add_eq ..
  rw [State.unread, hlenr, State.unread, Memory.bytesFrom_drop]
  rfl

/-- Settles O37: only the read cursor moves. -/
theorem consumeAdvancesReadCursorOrIsRefused : Obligations.ConsumeAdvancesReadCursorOrIsRefused := by
  intro n s
  constructor
  · intro hrange
    exact ⟨_, exec_consume_of_inRange hrange, rfl, rfl, rfl, rfl, fun _ => rfl, setRd_unread s n, rfl,
      ⟨rfl, rfl, rfl⟩, rfl⟩
  · intro hout
    exact exec_refuses (if_neg hout.not_ge)

theorem compacted_readByte_of_lt {s : State} {k : Nat} (h : k < s.lenr) :
    s.compacted.readByte k = s.readByte (s.rd + k) := by
  rw [compacted_readByte, if_pos h]

/-- The unread list is the same after COMPACT-steps: it is read from index 0 (40_buffer.md R109). -/
theorem compacted_unread (s : State) : s.compacted.unread = s.unread := by
  have hmoved : ∀ k < s.lenr, s.compacted.readByte (0 + k) = s.readByte (s.rd + k) := fun k hk => by
    rw [Nat.zero_add]
    exact compacted_readByte_of_lt hk
  exact Memory.bytesFrom_congr hmoved

/-- With `rd = 0` COMPACT-steps list no index as written (log entry 18). -/
theorem compacted_mem_of_rd_eq_zero {s : State} (h : s.rd = 0) : s.compacted.mem = s.mem := by
  change Memory.copyDown s.draw s.mem s.rd s.lenr = s.mem
  rw [h, Memory.copyDown_from_zero]

/-- Settles O38, from the bytes COMPACT-steps leave at each index. -/
theorem compactMovesUnreadRegionToStart : Obligations.CompactMovesUnreadRegionToStart := by
  intro s hwr
  have hexec := exec_of_done (s := s) (i := .compact) rfl (State.unreadInside_of_wr_le hwr)
  exact ⟨_, hexec, rfl, rfl, fun _ => compacted_readByte_of_lt, fun _ => compacted_readByte_of_le, compacted_unread s,
    rfl, compacted_mem_of_rd_eq_zero, rfl, ⟨rfl, rfl, rfl⟩, rfl⟩

/-- Settles O39: REWIND is carried out in every state. -/
theorem rewindEmptiesTheBuffer : Obligations.RewindEmptiesTheBuffer := fun s =>
  ⟨_, exec_of_done (i := .rewind) rfl trivial, rfl, rfl, rfl, Nat.sub_zero s.build.capacity, rfl, fun _ => rfl, rfl,
    ⟨rfl, rfl, rfl⟩, rfl⟩

/-! ### APPEND and APPENDRAW when the bytes fit -/

/-- Where the same bytes were stored at the same place, every index reads alike. -/
theorem Stored.sameBytes {s t u : State} {k : Nat} {bs : List Byte} (ht : Stored s k bs t) (hu : Stored s k bs u) :
    SameBytes t u := by
  intro i
  by_cases hout : i < s.wr + k ∨ s.wr + k + bs.length ≤ i
  · rw [hu.others i hout, ht.others i hout]
  · obtain ⟨j, rfl⟩ : ∃ j, i = s.wr + k + j := ⟨i - (s.wr + k), by omega⟩
    have hj : j < bs.length := by omega
    have hsame : (Memory.bytesFrom u.draw u.mem (s.wr + k) bs.length)[j]? =
        (Memory.bytesFrom t.draw t.mem (s.wr + k) bs.length)[j]? := by rw [hu.bytes, ht.bytes]
    rw [Memory.getElem?_bytesFrom, Memory.getElem?_bytesFrom, if_pos hj, if_pos hj] at hsame
    exact Option.some.inj hsame

/-- POKEs and one SEEK that fit store their bytes and advance the write cursor past them (30_encoding.md R75). -/
theorem execAll_appendRawCommands_of_fits {bs : List Byte} {s : State} (h : bs.length ≤ s.lenw) :
    ∃ t, execAll (appendRawCommands bs) s = .next t ∧ Stored s 0 bs t ∧ t.wr = s.wr + bs.length := by
  obtain ⟨u, hpokes, hstored, huwr⟩ := execAll_pokesFrom_of_fits (k := 0) (bs := bs) (s := s) (by omega)
  have hrange : u.seekInRange bs.length := by
    rw [State.seekInRange, hstored.lenw_eq, huwr]
    exact h
  refine ⟨(u.setWr (u.wr + bs.length)).answer (doneWord .nothing 0 0), ?_, ?_, by simp [huwr]⟩
  · exact (execAll_append_of_next hpokes).trans (execAll_cons_of_next (exec_seek_of_inRange hrange))
  · exact ⟨hstored.bytes, hstored.others, hstored.rd_eq, hstored.fcause_eq, hstored.surround⟩

/-- Settles O54: both lists store the same bytes at the old write cursor. -/
theorem appendAndAppendRawAgree : Obligations.AppendAndAppendRawAgree := by
  intro bs s hfits
  obtain ⟨t, happend, ht, htwr⟩ := execAll_appendCommands_of_fits hfits
  obtain ⟨u, hraw, hu, huwr⟩ := execAll_appendRawCommands_of_fits hfits
  have hcursors : SameCursors t u := ⟨hu.rd_eq.trans ht.rd_eq.symm, huwr.trans htwr.symm⟩
  exact ⟨t, u, happend, hraw, ⟨ht.sameBytes hu, hcursors, hu.fcause_eq.trans ht.fcause_eq.symm⟩, htwr, ht.rd_eq,
    ht.fcause_eq, ht.bytes, ht.others⟩

/-! ### Draining -/

/-- The state with these responses more, presented one by one. -/
def State.answerAll (s : State) (rs : List Word) : State := rs.foldl State.answer s

/-- Responses touch nothing but the response channel. -/
theorem State.answerAll_eq (s : State) (rs : List Word) : s.answerAll rs = { s with output := s.output ++ rs } := by
  induction rs generalizing s with
  | nil => rw [List.append_nil]; rfl
  | cons r rs ih =>
    calc s.answerAll (r :: rs) = (s.answer r).answerAll rs := rfl
      _ = { s with output := s.output ++ [r] ++ rs } := ih (s.answer r)
      _ = { s with output := s.output ++ r :: rs } := by rw [List.append_assoc, List.singleton_append]

/-- The response to a PEEK that is carried out (40_buffer.md R104). -/
def byteResponse (b : Byte) : Word := doneWord .nothing 0 b.toNat

/-- PEEKs within the unread region answer their bytes one after another and change nothing. -/
theorem execAll_peeks_of_inRange {ns : List Nat} {s : State} (hrange : ∀ n ∈ ns, s.peekInRange n)
    (hwr : s.wr ≤ s.build.capacity) :
    execAll (ns.map .peek) s = .next (s.answerAll (ns.map fun n => byteResponse (s.readByte (s.peekIndex n)))) := by
  induction ns generalizing s with
  | nil => rfl
  | cons n ns ih =>
    have hpeek := exec_peek_of_inRange (hrange n List.mem_cons_self) hwr
    have hrest : ∀ m ∈ ns, (s.answer (byteResponse (s.readByte (s.peekIndex n)))).peekInRange m := fun m hm =>
      hrange m (List.mem_cons_of_mem n hm)
    exact (execAll_cons_of_next hpeek).trans (ih hrest hwr)

/-- The first `j` unread bytes are those at offsets 0 to `j - 1` (10_state.md R22). -/
theorem take_unread {s : State} {j : Nat} (h : j ≤ s.lenr) :
    s.unread.take j = (List.range j).map fun k => s.readByte (s.peekIndex k) := by
  apply List.ext_getElem?
  intro k
  rw [List.getElem?_take, getElem?_unread, List.getElem?_map]
  by_cases hk : k < j
  · rw [if_pos hk, if_pos (hk.trans_le h), List.getElem?_range hk]
    rfl
  · rw [if_neg hk, List.getElem?_eq_none (by simpa using hk)]
    rfl

/-- PEEK 0 to PEEK `j - 1` answer the first `j` unread bytes in order. -/
theorem execAll_peek_range {s : State} {j : Nat} (h : j ≤ s.lenr) (hwr : s.wr ≤ s.build.capacity) :
    execAll ((List.range j).map .peek) s = .next (s.answerAll ((s.unread.take j).map byteResponse)) := by
  have hrange : ∀ n ∈ List.range j, s.peekInRange n := fun n hn => (List.mem_range.mp hn).trans_le h
  rw [execAll_peeks_of_inRange hrange hwr, take_unread h, List.map_map]
  rfl

/-- Settles O56: the PEEKs only answer, so the CONSUME finds the unread region as it was. -/
theorem drainReadsAndDropsTheFirstBytes : Obligations.DrainReadsAndDropsTheFirstBytes := by
  intro j s hj hwr
  have hpeeks := execAll_peek_range hj hwr
  rw [State.answerAll_eq] at hpeeks
  have hdrain := (execAll_append_of_next (m := [.consume j]) hpeeks).trans
    (execAll_cons_of_next (exec_consume_of_inRange hj))
  exact ⟨_, hdrain, rfl, setRd_unread s j, rfl, rfl, rfl, ⟨rfl, rfl, rfl⟩⟩

end Sys2Proof.Machine

/-! SUPPORT. 41_scanner.md: the scan as the index loop (R130), where it stops (R131, R132), what may be dropped after it
(R137), and the SCAN command against SYNC (R134; 92_eei_decisions.md D17). -/

namespace Sys2Proof.Machine

/-! ### The index loop -/

/-- The loop at position `i + 1` of a window is the loop at position `i` of the window without its first byte. -/
theorem scanLoop_cons (a : Byte) (w : List Byte) (fuel i : Nat) :
    scanLoop (a :: w) fuel (i + 1) = scanLoop w fuel i := by
  have hrem : (a :: w).length - (i + 1) = w.length - i := Nat.add_sub_add_right ..
  induction fuel generalizing i with
  | zero => rw [scanLoop, scanLoop, hrem]
  | succ fuel ih =>
    rw [scanLoop, scanLoop, hrem, candidate_cons]
    cases candidate w i with
    | none => rfl
    | some m => simp only [ih (i + 1) (Nat.add_sub_add_right ..)]

/-- Settles O24: the recursion drops the byte that the loop steps over. -/
theorem scanIsTheIndexLoop : Obligations.ScanIsTheIndexLoop := by
  intro w
  induction w using scan.induct with
  | case1 => rfl
  | case2 a => rfl
  | case3 a b rest h => rw [scan_marker rest h]; exact (if_pos h).symm
  | case4 a b rest h ih =>
    calc scan (a :: b :: rest) = scan (b :: rest) := scan_skip rest (by simpa using h)
      _ = scanLoop (b :: rest) (b :: rest).length 0 := ih
      _ = scanLoop (a :: b :: rest) (b :: rest).length 1 := (scanLoop_cons ..).symm
      _ = scanLoop (a :: b :: rest) (a :: b :: rest).length 0 := (if_neg h).symm

/-! ### Where the scan stops -/

@[simp] theorem markerAt_nil (i : Nat) : markerAt [] i = false := rfl

@[simp] theorem markerAt_single (a : Byte) (i : Nat) : markerAt [a] i = false := by cases i <;> rfl

theorem markerAt_cons (a : Byte) (w : List Byte) (i : Nat) : markerAt (a :: w) (i + 1) = markerAt w i := rfl

theorem markerAt_zero (a b : Byte) (rest : List Byte) : markerAt (a :: b :: rest) 0 = isMarker (littleEndian a b) := rfl

theorem markerAt_of_candidate {w : List Byte} {i : Nat} {m : Half} (h : candidate w i = some m) :
    markerAt w i = isMarker m := by
  rw [markerAt, h, Option.any_some]

/-- A candidate is two bytes of the window (41_scanner.md R130). -/
theorem lt_length_of_candidate {w : List Byte} {i : Nat} {m : Half} (h : candidate w i = some m) :
    i + 1 < w.length := by
  by_contra hout
  have hsecond : w[i + 1]? = none := List.getElem?_eq_none (Nat.le_of_not_lt hout)
  simp [candidate, hsecond] at h

/-- The earliest valid marker of the window is `m`, at position `p` (41_scanner.md R131). -/
structure FirstMarker (w : List Byte) (p : Nat) (m : Half) : Prop where
  candidate_eq : candidate w p = some m
  isMarker : isMarker m = true
  none_before : ∀ j < p, markerAt w j = false

/-- A byte at which no marker begins, put in front, moves the earliest marker by one. -/
theorem FirstMarker.cons {a : Byte} {w : List Byte} {p : Nat} {m : Half} (h : FirstMarker w p m)
    (ha : markerAt (a :: w) 0 = false) : FirstMarker (a :: w) (p + 1) m where
  candidate_eq := (candidate_cons a w p).trans h.candidate_eq
  isMarker := h.isMarker
  none_before
    | 0, _ => ha
    | j + 1, hj => (markerAt_cons a w j).trans <| h.none_before j (Nat.lt_of_succ_lt_succ hj)

/-- What a scan can report: there is no marker and at most one byte is left, or it stops at the earliest one
(41_scanner.md R131, R132). -/
theorem scan_cases (w : List Byte) :
    (scan w = ⟨false, min w.length 1, 0⟩ ∧ ∀ j, markerAt w j = false) ∨
      ∃ p m, FirstMarker w p m ∧ scan w = ⟨true, w.length - p, seqOf m⟩ := by
  induction w using scan.induct with
  | case1 => exact .inl ⟨rfl, markerAt_nil⟩
  | case2 a => exact .inl ⟨rfl, markerAt_single a⟩
  | case3 a b rest h =>
    exact .inr ⟨0, littleEndian a b, ⟨rfl, h, fun j hj => absurd hj j.not_lt_zero⟩, scan_marker rest h⟩
  | case4 a b rest h ih =>
    have hskip : isMarker (littleEndian a b) = false := by simpa using h
    have hzero : markerAt (a :: b :: rest) 0 = false := (markerAt_zero a b rest).trans hskip
    rw [scan_skip rest hskip]
    obtain ⟨hscan, hnone⟩ | ⟨p, m, hfirst, hscan⟩ := ih
    · refine .inl ⟨by simp [hscan], fun j => ?_⟩
      cases j with
      | zero => exact hzero
      | succ j => exact (markerAt_cons a (b :: rest) j).trans (hnone j)
    · refine .inr ⟨p + 1, m, hfirst.cons hzero, ?_⟩
      rw [hscan, List.length_cons (a := a), Nat.add_sub_add_right]

theorem scan_of_not_found {w : List Byte} (h : (scan w).found = false) :
    scan w = ⟨false, min w.length 1, 0⟩ ∧ ∀ j, markerAt w j = false := by
  obtain hnone | ⟨p, m, -, hscan⟩ := scan_cases w
  · exact hnone
  · simp [hscan] at h

/-- The remaining length gives the position back: the earliest marker is at `L - rem`. -/
theorem firstMarker_of_found {w : List Byte} (h : (scan w).found = true) :
    ∃ m, FirstMarker w (w.length - (scan w).rem) m ∧ (scan w).seq = seqOf m := by
  obtain ⟨hscan, -⟩ | ⟨p, m, hfirst, hscan⟩ := scan_cases w
  · simp [hscan] at h
  · have hp := lt_length_of_candidate hfirst.candidate_eq
    have hpos : w.length - (scan w).rem = p := by rw [hscan]; exact Nat.sub_sub_self (by omega)
    exact ⟨m, hpos ▸ hfirst, by rw [hscan]⟩

/-- Settles O25: the marker's two bytes are in the window, so at least two bytes remain. -/
theorem scanFindsTheEarliestMarker : Obligations.ScanFindsTheEarliestMarker := by
  intro w h
  obtain ⟨m, hfirst, hseq⟩ := firstMarker_of_found h
  have hpos := lt_length_of_candidate hfirst.candidate_eq
  have hle := scan_rem_le w
  exact ⟨by omega, hle, hpos, ⟨m, hfirst.candidate_eq, hfirst.isMarker, hseq⟩, hfirst.none_before⟩

/-- Zero bytes hold no marker (41_scanner.md R132). -/
theorem scan_replicate_zero (n : Nat) : scan (List.replicate (n + 1) 0) = ⟨false, 1, 0⟩ := by
  induction n with
  | zero => rfl
  | succ n ih => exact (scan_skip (List.replicate n 0) (by decide)).trans ih

/-- Settles O26. -/
theorem scanWithoutMarkerKeepsAtMostOneByte : Obligations.ScanWithoutMarkerKeepsAtMostOneByte := by
  refine ⟨fun w h => ?_, scan_replicate_zero, scan_single, scan_nil⟩
  obtain ⟨hscan, hnone⟩ := scan_of_not_found h
  exact ⟨by rw [hscan], by rw [hscan], hnone⟩

/-! ### Dropping what a failed scan disposed of -/

/-- The bytes a scan leaves: from the position where it stopped on (41_scanner.md R130). -/
def scanTail (w : List Byte) : List Byte := w.drop (w.length - (scan w).rem)

/-- A byte that is skipped is not left. -/
theorem scanTail_skip {a b : Byte} (rest : List Byte) (h : isMarker (littleEndian a b) = false) :
    scanTail (a :: b :: rest) = scanTail (b :: rest) := by
  rw [scanTail, scan_skip rest h, List.length_cons, Nat.succ_sub (scan_rem_le (b :: rest)), List.drop_succ_cons,
    scanTail]

theorem length_scanTail (w : List Byte) : (scanTail w).length = (scan w).rem := by
  rw [scanTail, List.length_drop, Nat.sub_sub_self (scan_rem_le w)]

/-- A failed scan goes on in the bytes it left, whatever follows: a marker over the seam begins in them
(41_scanner.md R137). -/
theorem scan_append_of_not_found {w : List Byte} (h : (scan w).found = false) (v : List Byte) :
    scan (w ++ v) = scan (scanTail w ++ v) := by
  induction w using scan.induct with
  | case1 => rfl
  | case2 a => rfl
  | case3 a b rest hmarker => simp [scan_marker rest hmarker] at h
  | case4 a b rest hmarker ih =>
    have hskip : isMarker (littleEndian a b) = false := by simpa using hmarker
    rw [scan_skip rest hskip] at h
    rw [scanTail_skip rest hskip]
    exact (scan_skip (rest ++ v) hskip).trans (ih h)

/-- Settles O27: the reports are equal, and the windows' lengths differ by what was dropped. -/
theorem droppingScannedBytesLosesNoMarker : Obligations.DroppingScannedBytesLosesNoMarker := by
  intro w v h
  have hscan : scan (w ++ v) = scan (scanTail w ++ v) := scan_append_of_not_found h v
  have hlength : (w.drop (w.length - (scan w).rem)).length = (scan w).rem := length_scanTail w
  have hle := scan_rem_le w
  have hrem := scan_rem_le (scanTail w ++ v)
  rw [← hscan, List.length_append, length_scanTail] at hrem
  refine ⟨hscan, ?_⟩
  rw [List.length_append, List.length_append, hlength]
  omega

/-! ### The SCAN command -/

/-- SCAN only answers (41_scanner.md R134). -/
theorem exec_scan_of_unreadInside {s : State} (h : s.UnreadInside) :
    exec .scan s = .next (s.answer (answerOf s .scan)) :=
  exec_of_done rfl h

/-- Settles O40: the response is the scan's report, and a marker found is the earliest one of the unread region. -/
theorem scanCommandReportsTheUnreadRegion : Obligations.ScanCommandReportsTheUnreadRegion := by
  intro s hwr
  refine ⟨_, exec_scan_of_unreadInside (State.unreadInside_of_wr_le hwr), fun h => ?_, fun h => ?_⟩
  · have hanswer : answerOf s .scan = doneWord .nothing 0 (scan s.unread).rem := by
      simp [answerOf, scanClass, scan_of_not_found h]
    exact hanswer ▸ onlyAnswered_answer s _
  · have hanswer : answerOf s .scan = doneWord .found (scan s.unread).seq (scan s.unread).rem := by
      simp [answerOf, scanClass, h]
    obtain ⟨m, hfirst, -⟩ := firstMarker_of_found h
    have hmarker := (markerAt_of_candidate hfirst.candidate_eq).trans hfirst.isMarker
    have hpos := lt_length_of_candidate hfirst.candidate_eq
    rw [length_unread] at hmarker hpos
    have hle := scan_unread_rem_le s
    refine ⟨hanswer ▸ onlyAnswered_answer s _, hmarker, ?_⟩
    unfold State.lenr at hpos hle ⊢
    omega

/-! ### SYNC as SCAN, CONSUME and COMPACT -/

theorem syncOutcome_eq_nothing_iff (s : State) : s.syncOutcome = .nothing ↔ (scan s.unread).found = false := by
  unfold State.syncOutcome syncClass
  split_ifs <;> simp_all

/-- SYNC answers SEQ 0 only where the scan reports it anyway (41_scanner.md R132). -/
theorem syncSeq_eq_scan_seq (s : State) : s.syncSeq = (scan s.unread).seq := by
  unfold State.syncSeq
  split
  next hnothing =>
    obtain ⟨hscan, -⟩ := scan_of_not_found ((syncOutcome_eq_nothing_iff s).mp hnothing)
    rw [hscan]
  · rfl
  · rfl

theorem State.Inv.scan_rem_lt {s : State} (h : s.Inv) : (scan s.unread).rem < 65536 :=
  h.lt_of_le_capacity ((scan_unread_rem_le s).trans h.cursors.lenr_le_capacity)

/-- CONSUME of what SCAN disposed of is SYNC's step 2 (42_sync.md R150). -/
theorem exec_consume_scanned (s : State) (r : Word) :
    exec (.consume (s.lenr - (scan s.unread).rem)) (s.answer r) =
      .next ((s.dropScanned.answer r).answer (doneWord .nothing 0 0)) :=
  exec_consume_of_inRange (Nat.sub_le ..)

/-- CONSUME of what SCAN disposed of, and COMPACT unless SYNC would answer FRAME, leave the block as SYNC does. -/
theorem execAll_consume_scanned {s : State} (h : s.UnreadInside) (r : Word) :
    ∃ v, execAll (.consume (s.lenr - (scan s.unread).rem) :: if s.syncOutcome = .found then [] else [.compact])
        (s.answer r) = .next v ∧ SameBlock s.synced v := by
  rw [execAll_cons_of_next (exec_consume_scanned s r)]
  split_ifs with hfound
  · rw [State.synced_of_found hfound]
    exact ⟨_, rfl, fun _ => rfl, ⟨rfl, rfl⟩, rfl⟩
  · rw [State.synced_of_not_found hfound]
    have hin : ((s.dropScanned.answer r).answer (doneWord .nothing 0 0)).UnreadInside := dropScanned_unreadInside h
    exact ⟨_, execAll_cons_of_next (exec_of_done (i := .compact) rfl hin), fun _ => rfl, ⟨rfl, rfl⟩, rfl⟩

/-- Settles O42: the host reads `rem` back from SCAN's response and issues the two halves of SYNC. -/
theorem syncIsScanConsumeCompact : Obligations.SyncIsScanConsumeCompact := by
  intro s hinv
  have hin := hinv.cursors.unreadInside
  have hval : (rspVal (s.answer (answerOf s .scan)).lastResponse).toNat = (scan s.unread).rem := by
    rw [State.answer_lastResponse, answerOf, rspVal_doneWord, Nat.mod_eq_of_lt hinv.scan_rem_lt]
  obtain ⟨v, hrun, hsame⟩ := execAll_consume_scanned hin (answerOf s .scan)
  refine ⟨_, _, v, execSync_of_unreadInside hin, exec_scan_of_unreadInside hin, ?_, hsame,
    carriedOut_fcause s .sync, ?_, ?_⟩
  · simpa only [hval, answeredFrame_answer_sync] using hrun
  · apply BitVec.eq_of_toNat_eq
    simp [answerOf]
  · simp [answerOf, syncSeq_eq_scan_seq]

end Sys2Proof.Machine

/-! SUPPORT. 42_sync.md: what SYNC answers and leaves (R150, R152, R154, R155), and the host's decode pass (R151,
R153). -/

namespace Sys2Proof.Machine

/-! ### The bytes a scan leaves -/

/-- Scanning what a scan left reports the same (42_sync.md R150). -/
theorem scan_scanTail (w : List Byte) : scan (scanTail w) = scan w := by
  induction w using scan.induct with
  | case1 => rfl
  | case2 a => rfl
  | case3 a b rest h =>
    have hall : scanTail (a :: b :: rest) = a :: b :: rest := by simp [scanTail, scan_marker rest h]
    rw [hall]
  | case4 a b rest h ih =>
    have hskip : isMarker (littleEndian a b) = false := by simpa using h
    rw [scanTail_skip rest hskip, scan_skip rest hskip, ih]

/-- What a scan that found a marker left begins with it (41_scanner.md R131). -/
theorem markerAt_scanTail {w : List Byte} (h : (scan w).found = true) : markerAt (scanTail w) 0 = true := by
  have hagain : (scan (scanTail w)).found = true := (scan_scanTail w).symm ▸ h
  obtain ⟨m, hfirst, -⟩ := firstMarker_of_found hagain
  rw [scan_scanTail, length_scanTail, Nat.sub_self] at hfirst
  exact (markerAt_of_candidate hfirst.candidate_eq).trans hfirst.isMarker

/-- A marker at the start of the window stops the scan there. -/
theorem scan_of_markerAt_zero {w : List Byte} (h : markerAt w 0 = true) :
    (scan w).found = true ∧ (scan w).rem = w.length := by
  match w with
  | [] | [_] => simp at h
  | a :: b :: rest =>
    rw [scan_marker rest h]
    exact ⟨rfl, rfl⟩

/-! ### The three outcomes -/

theorem frameSize_pos (s : State) : 0 < s.frameSize := Nat.succ_pos _

/-- A whole frame's unread bytes end at the write cursor or before it. -/
theorem rd_add_frameSize_le_wr {s : State} (h : s.frameSize ≤ s.lenr) : s.rd + s.frameSize ≤ s.wr := by
  have hpos := frameSize_pos s
  unfold State.lenr at h
  omega

theorem syncOutcome_eq_partialFrame_iff (s : State) :
    s.syncOutcome = .partialFrame ↔ (scan s.unread).found = true ∧ (scan s.unread).rem < s.frameSize := by
  unfold State.syncOutcome syncClass
  split_ifs <;> simp_all

/-- SYNC answers FRAME exactly when a whole frame's bytes are left: without a marker at most one byte is
(41_scanner.md R132). -/
theorem syncOutcome_eq_found_iff (s : State) : s.syncOutcome = .found ↔ s.frameSize ≤ (scan s.unread).rem := by
  cases hfound : (scan s.unread).found with
  | true =>
    unfold State.syncOutcome syncClass
    split_ifs <;> simp_all
  | false =>
    have hclass := (syncOutcome_eq_nothing_iff s).mpr hfound
    obtain ⟨hscan, -⟩ := scan_of_not_found hfound
    have hshort : ¬ s.frameSize ≤ (scan s.unread).rem := by
      rw [hscan]
      simp only [State.frameSize, frameSizeOf, markerSize]
      omega
    simp [hclass, hshort]

theorem scan_found_of_syncOutcome {s : State} (h : s.syncOutcome = .found) : (scan s.unread).found = true := by
  rw [← Bool.not_eq_false, ← syncOutcome_eq_nothing_iff, h]
  exact nofun

theorem ResultClass.code_inj {r r' : ResultClass} : r.code = r'.code ↔ r = r' := by
  cases r <;> cases r' <;> decide

theorem answerOf_sync {s : State} {res : ResultClass} (h : s.syncOutcome = res) :
    answerOf s .sync = doneWord res (scan s.unread).seq (scan s.unread).rem := by
  rw [answerOf, h, syncSeq_eq_scan_seq]

/-! ### The block after SYNC -/

/-- SYNC's unread region is what the scan left, compacted or not (42_sync.md R150). -/
theorem synced_unread (s : State) : s.synced.unread = scanTail s.unread := by
  have hdrop : s.dropScanned.unread = scanTail s.unread := by
    rw [State.dropScanned, setRd_unread, scanTail, length_unread]
  rcases s.synced_eq_or with heq | heq
  · rw [heq, hdrop]
  · rw [heq, compacted_unread, hdrop]

theorem synced_wr_of_not_found {s : State} (h : s.syncOutcome ≠ .found) : s.synced.wr = (scan s.unread).rem := by
  rw [State.synced_of_not_found h]
  exact dropScanned_lenr s

theorem synced_lenw_of_not_found {s : State} (h : s.syncOutcome ≠ .found) :
    s.synced.lenw = s.build.capacity - (scan s.unread).rem := by
  rw [State.lenw, synced_wr_of_not_found h]
  exact congrArg (·.capacity - _) (carriedOut_build s .sync)

/-- When SYNC compacts, what the scan left stands at index 0 (42_sync.md R150). -/
theorem synced_readByte_of_kept {s : State} (hrd : s.rd ≤ s.wr) (h : s.syncOutcome ≠ .found) {k : Nat}
    (hk : k < (scan s.unread).rem) : s.synced.readByte k = s.readByte (s.wr - (scan s.unread).rem + k) := by
  have hstart : s.dropScanned.rd = s.wr - (scan s.unread).rem := by
    have hrem := scan_unread_rem_le s
    simp only [State.dropScanned, State.setRd_rd, State.lenr] at hrem ⊢
    omega
  rw [State.synced_of_not_found h, compacted_readByte_of_lt (by rwa [dropScanned_lenr]), hstart]
  rfl

section AfterSync

variable {s t : State} (h : exec .sync s = .next t)
include h

theorem eq_synced_of_exec : t = s.synced.answer (answerOf s .sync) := eq_done_of_exec rfl h

theorem sameSurround_after_sync : SameSurround s t := (everyCommandLeavesTheBuildAlone .sync s t h).1

theorem frameSize_after_sync : t.frameSize = s.frameSize := congrArg frameSizeOf (sameSurround_after_sync h).1

theorem output_after_sync {res : ResultClass} (hres : s.syncOutcome = res) :
    t.output = s.output ++ [doneWord res (scan s.unread).seq (scan s.unread).rem] := by
  rw [eq_synced_of_exec h, State.answer_output, answerOf_sync hres]
  exact congrArg (· ++ _) (carriedOut_output s .sync)

theorem rspRes_after_sync : rspRes t.lastResponse = s.syncOutcome.code := by
  rw [eq_synced_of_exec h, State.answer_lastResponse, answerOf_sync rfl, rspRes_doneWord]

theorem unread_after_sync : t.unread = scanTail s.unread := by
  rw [eq_synced_of_exec h, State.answer_unread, synced_unread]

theorem lenr_after_sync : t.lenr = (scan s.unread).rem := by
  rw [← length_unread, unread_after_sync h, length_scanTail]

theorem lenr_after_sync_le : t.lenr ≤ s.lenr := (lenr_after_sync h).trans_le (scan_unread_rem_le s)

theorem scan_after_sync : scan t.unread = scan s.unread := by
  rw [unread_after_sync h, scan_scanTail]

theorem syncOutcome_after_sync : t.syncOutcome = s.syncOutcome := by
  rw [State.syncOutcome, State.syncOutcome, scan_after_sync h, frameSize_after_sync h]

theorem markerAt_after_sync (hfound : (scan s.unread).found = true) : markerAt t.unread 0 = true := by
  rw [unread_after_sync h, markerAt_scanTail hfound]

theorem answeredFrame_iff_syncOutcome : answeredFrame t = true ↔ s.syncOutcome = .found := by
  rw [eq_synced_of_exec h, answeredFrame_answer_sync]

/-- The host learns from FRAME that a whole frame's bytes are unread, and without it that they are not. -/
theorem answeredFrame_iff_of_sync : answeredFrame t = true ↔ t.frameSize ≤ t.lenr := by
  rw [answeredFrame_iff_syncOutcome h, syncOutcome_eq_found_iff, frameSize_after_sync h, lenr_after_sync h]

end AfterSync

/-- Settles O41: the outcome follows from the scan's report, and what is left from the outcome. -/
theorem syncHasThreeOutcomes : Obligations.SyncHasThreeOutcomes := by
  intro s hrd hwr
  have h : exec .sync s = .next _ := execSync_of_unreadInside (State.unreadInside_of_wr_le hwr)
  refine ⟨_, h, carriedOut_fcause s .sync, sameSurround_after_sync h, ?_, fun hnone => ?_, fun hfound hshort => ?_,
    fun hfound hwhole => ?_⟩
  · rw [unread_after_sync h, scanTail, length_unread]
  · have houtcome := (syncOutcome_eq_nothing_iff s).mpr hnone
    have hstop : s.syncOutcome ≠ .found := by simp [houtcome]
    obtain ⟨hrem, hseq, -⟩ := scanWithoutMarkerKeepsAtMostOneByte.1 s.unread hnone
    exact ⟨hseq ▸ output_after_sync h houtcome, hrem ▸ Nat.min_le_right .., synced_rd_of_not_found hstop,
      synced_wr_of_not_found hstop, synced_lenw_of_not_found hstop, fun _ => synced_readByte_of_kept hrd hstop,
      fun _ hk => synced_readByte (.inl hk)⟩
  · have houtcome := (syncOutcome_eq_partialFrame_iff s).mpr ⟨hfound, hshort⟩
    have hstop : s.syncOutcome ≠ .found := by simp [houtcome]
    obtain ⟨htwo, -⟩ := scanFindsTheEarliestMarker s.unread hfound
    exact ⟨output_after_sync h houtcome, htwo, synced_rd_of_not_found hstop, synced_wr_of_not_found hstop,
      synced_lenw_of_not_found hstop, markerAt_after_sync h hfound, fun _ => synced_readByte_of_kept hrd hstop,
      fun _ hk => synced_readByte (.inl hk)⟩
  · have houtcome := (syncOutcome_eq_found_iff s).mpr hwhole
    have hkeep := State.synced_of_found houtcome
    exact ⟨output_after_sync h houtcome, (congrArg State.rd hkeep :), synced_wr_of_found houtcome, lenr_after_sync h,
      (congrArg State.lenw hkeep :), (congrArg State.mem hkeep :), fun _ => synced_readByte (.inr houtcome),
      markerAt_after_sync h hfound⟩

/-! ### SYNC repeated -/

/-- A compacted block is left as it is by COMPACT-steps (40_buffer.md R109). -/
theorem compacted_of_rd_eq_zero {s : State} (h : s.rd = 0) : s.compacted = s := by
  have hmem : Memory.copyDown s.draw s.mem s.rd s.lenr = s.mem := compacted_mem_of_rd_eq_zero h
  have hlenr : s.lenr = s.wr := by rw [State.lenr, h, Nat.sub_zero]
  rw [State.compacted, hmem, hlenr, ← h]
  rfl

/-- SYNC moves nothing where the scan keeps every byte and the block is compacted or a frame is reported. -/
theorem synced_of_settled {s : State} (hrem : (scan s.unread).rem = s.lenr)
    (hrd : s.syncOutcome ≠ .found → s.rd = 0) : s.synced = s := by
  have hdrop := dropScanned_of_rem_eq hrem
  by_cases hfound : s.syncOutcome = .found
  · rw [State.synced_of_found hfound, hdrop]
  · rw [State.synced_of_not_found hfound, hdrop, compacted_of_rd_eq_zero (hrd hfound)]

section Repeated

variable {s t : State} (h : exec .sync s = .next t)
include h

theorem synced_after_sync : t.synced = t := by
  refine synced_of_settled ((congrArg ScanResult.rem (scan_after_sync h)).trans (lenr_after_sync h).symm) ?_
  rw [syncOutcome_after_sync h, eq_synced_of_exec h]
  exact synced_rd_of_not_found

theorem answerOf_sync_after_sync : answerOf t .sync = answerOf s .sync := by
  rw [answerOf_sync (syncOutcome_after_sync h), answerOf_sync rfl, scan_after_sync h]

end Repeated

/-- Settles O43: the scan of what SYNC left reports the same, and there is nothing left to drop or to compact. -/
theorem syncRepeatedAnswersTheSame : Obligations.SyncRepeatedAnswersTheSame := by
  intro s t hinv h
  have hcur : t.CursorsInStore := hinv.cursors.after_exec h
  refine ⟨_, execSync_of_unreadInside hcur.unreadInside, ?_, ?_⟩
  · rw [State.answer_lastResponse, answerOf_sync_after_sync h, eq_synced_of_exec h, State.answer_lastResponse]
  · rw [synced_after_sync h]
    exact ⟨fun _ => rfl, ⟨rfl, rfl⟩, rfl⟩

/-! ### A partial frame, and a whole one -/

/-- Settles O44: the scan stops at once with less than a frame left. -/
theorem partialFrameIsRetained : Obligations.PartialFrameIsRetained := by
  intro s hrd hwr hmarker hshort
  obtain ⟨hfound, hrem⟩ := scan_of_markerAt_zero hmarker
  rw [length_unread] at hrem
  have houtcome := (syncOutcome_eq_partialFrame_iff s).mpr ⟨hfound, hrem.symm ▸ hshort⟩
  have hstop : s.syncOutcome ≠ .found := by simp [houtcome]
  have hexec : exec .sync s = .next _ := execSync_of_unreadInside (State.unreadInside_of_wr_le hwr)
  refine ⟨_, hexec, ?_, ?_, synced_rd_of_not_found hstop, (synced_wr_of_not_found hstop).trans hrem⟩
  · rw [rspRes_after_sync hexec, houtcome]
  · rw [unread_after_sync hexec, scanTail, length_unread, hrem, Nat.sub_self, List.drop_zero]

/-- Settles O45: the unread bytes end at the write cursor, in the store; and a compacted store has room for a frame. -/
theorem reportedFrameIsWholeAndPartialFits : Obligations.ReportedFrameIsWholeAndPartialFits := by
  intro s t hinv h
  have hcur : t.CursorsInStore := hinv.cursors.after_exec h
  constructor
  · intro hframe
    have hwhole := (answeredFrame_iff_of_sync h).mp hframe
    have hfound := scan_found_of_syncOutcome ((answeredFrame_iff_syncOutcome h).mp hframe)
    exact ⟨hwhole, (rd_add_frameSize_le_wr hwhole).trans hcur.2, markerAt_after_sync h hfound⟩
  · intro hpartial
    rw [rspRes_after_sync h, ResultClass.code_inj] at hpartial
    have hrd : t.rd = 0 := by
      rw [eq_synced_of_exec h]
      exact synced_rd_of_not_found (by simp [hpartial])
    obtain ⟨hbuild, -⟩ := sameSurround_after_sync h
    have hframe : t.frameSize ≤ t.build.capacity := by
      rw [State.frameSize, hbuild]
      exact hinv.legal.1
    have hsum := hcur.lenr_add_lenw_eq_capacity_iff.mpr hrd
    exact ⟨hrd, by omega⟩

/-! ### Taking the frame that SYNC reported -/

/-- The payload of the frame at the start of the unread region (30_encoding.md R65). -/
def State.reportedPayload (s : State) : List Byte := (s.unread.drop markerSize).take s.build.payloadSize

/-- The responses to the PEEKs of a payload and to TAKE (42_sync.md R151). -/
def frameResponses (payload : List Byte) : List Word := payload.map byteResponse ++ [doneWord .nothing 0 0]

/-- The state after steps 4 and 5 of the pass: the payload answered and the frame consumed (42_sync.md R151). -/
def State.frameTaken (s : State) : State :=
  { s with rd := s.rd + s.frameSize, output := s.output ++ frameResponses s.reportedPayload }

theorem frameTaken_unread (s : State) : s.frameTaken.unread = s.unread.drop s.frameSize := setRd_unread s s.frameSize

theorem frameTaken_lenr (s : State) : s.frameTaken.lenr = s.lenr - s.frameSize := Nat.sub_add_eq ..

/-- The payload's bytes stand at the offsets after the marker (42_sync.md R151). -/
theorem reportedPayload_eq_map {s : State} (h : s.frameSize ≤ s.lenr) :
    s.reportedPayload = (List.range s.build.payloadSize).map fun k => s.readByte (s.peekIndex (markerSize + k)) := by
  have hwithin : s.build.payloadSize ≤ (s.setRd (s.rd + markerSize)).lenr := by
    simp only [State.frameSize, frameSizeOf, State.lenr, State.setRd_rd, State.setRd_wr] at h ⊢
    omega
  rw [State.reportedPayload, ← setRd_unread, take_unread hwithin]
  simp only [State.peekIndex, State.setRd_rd, State.setRd_readByte, Nat.add_assoc]

/-- With a whole frame unread the host's commands for it read its payload and consume it, none refused. -/
theorem execAll_frameCommands {s : State} (h : s.frameSize ≤ s.lenr) (hwr : s.wr ≤ s.build.capacity) :
    execAll (frameCommands s.build) s = .next s.frameTaken := by
  have hlist : payloadPeeks s.build = ((List.range s.build.payloadSize).map (markerSize + ·)).map .peek := by
    rw [payloadPeeks, List.map_map]
    rfl
  have hrange : ∀ n ∈ (List.range s.build.payloadSize).map (markerSize + ·), s.peekInRange n := by
    simp only [List.forall_mem_map, List.mem_range, State.peekInRange]
    simp only [State.frameSize, frameSizeOf] at h
    omega
  have hpeeks : execAll (payloadPeeks s.build) s = .next (s.answerAll (s.reportedPayload.map byteResponse)) := by
    rw [hlist, execAll_peeks_of_inRange hrange hwr, reportedPayload_eq_map h, List.map_map, List.map_map]
    rfl
  rw [State.answerAll_eq] at hpeeks
  have hrun := (execAll_append_of_next (m := takeCommands s.build) hpeeks).trans
    (execAll_cons_of_next (exec_consume_of_inRange h))
  rw [frameCommands, hrun, State.frameTaken, frameResponses, ← List.append_assoc]
  rfl

/-! ### One round of the decode pass -/

section Round

variable {s t : State} (hsync : exec .sync s = .next t)
include hsync

/-- NOSYNC and PARTIAL end the pass (42_sync.md R151). -/
theorem decodePass_of_no_frame (sinks : List Bool) (h : answeredFrame t = false) : decodePass sinks s = .next t := by
  cases sinks <;> simp [decodePass, hsync, h]

/-- A sink that cannot take the block ends it with a COMPACT. -/
theorem decodePass_of_sink_full {sinks : List Bool} (hsink : sinks.head? ≠ some true) (h : answeredFrame t = true) :
    decodePass sinks s = exec .compact t := by
  match sinks with
  | [] | false :: later => simp [decodePass, hsync, h]
  | true :: later => exact absurd rfl hsink

/-- Otherwise the frame is taken, and the pass starts over. -/
theorem decodePass_of_sink_ready (later : List Bool) (h : answeredFrame t = true) (hwr : t.wr ≤ t.build.capacity) :
    decodePass (true :: later) s = decodePass later t.frameTaken := by
  have htake := execAll_frameCommands ((answeredFrame_iff_of_sync hsync).mp h) hwr
  simp [decodePass, hsync, h, htake]

end Round

/-! ### The pass keeps the contract -/

/-- From `s` to `t` no command was refused, so `fcause` is as before; the invariant holds (60_exceptions.md R181). -/
structure RunsRight (s t : State) : Prop where
  inv : t.Inv
  fcause_eq : t.fcause = s.fcause
  build_eq : t.build = s.build
  answered : ∃ answers, t.output = s.output ++ answers ∧ ∀ r ∈ answers, rspRefused r = false

theorem RunsRight.trans {s t u : State} (h : RunsRight s t) (h' : RunsRight t u) : RunsRight s u where
  inv := h'.inv
  fcause_eq := h'.fcause_eq.trans h.fcause_eq
  build_eq := h'.build_eq.trans h.build_eq
  answered := by
    obtain ⟨first, hout, hfirst⟩ := h.answered
    obtain ⟨second, hout', hsecond⟩ := h'.answered
    refine ⟨first ++ second, by rw [hout', hout, List.append_assoc], fun r hr => ?_⟩
    exact (List.mem_append.mp hr).elim (hfirst r) (hsecond r)

/-- A command that the block does not refuse keeps the contract (60_exceptions.md R181). -/
theorem RunsRight.of_exec {i : Instr} {s t : State} (hinv : s.Inv) (hnone : refusalOf s i = none)
    (h : exec i s = .next t) : RunsRight s t := by
  obtain rfl := eq_done_of_exec hnone h
  exact ⟨hinv.done hnone, carriedOut_fcause s i, carriedOut_build s i, [answerOf s i], by simp, by simp⟩

/-- The responses given are no part of the invariant. -/
theorem State.Inv.answer {s : State} (h : s.Inv) (r : Word) : (s.answer r).Inv := { h with }

theorem RunsRight.frameTaken {s : State} (hinv : s.Inv) (h : s.frameSize ≤ s.lenr) : RunsRight s s.frameTaken where
  inv := { hinv with rd_le_wr := rd_add_frameSize_le_wr h }
  fcause_eq := rfl
  build_eq := rfl
  answered := ⟨_, rfl, by simp [frameResponses, byteResponse, or_imp, forall_and]⟩

/-- SYNC is never refused, and keeps the contract. -/
theorem State.Inv.sync_runs {s : State} (hinv : s.Inv) : ∃ t, exec .sync s = .next t ∧ RunsRight s t := by
  have hexec := exec_of_done (s := s) (i := .sync) rfl hinv.cursors.unreadInside
  exact ⟨_, hexec, .of_exec hinv rfl hexec⟩

/-- A pass that takes no frame ends compacted: SYNC or the COMPACT after it has done so (42_sync.md R151). -/
theorem decodePass_stops {sinks : List Bool} {s t : State} (hsync : exec .sync s = .next t) (hright : RunsRight s t)
    (h : answeredFrame t = true → sinks.head? ≠ some true) :
    ∃ u, decodePass sinks s = .next u ∧ u.rd = 0 ∧ RunsRight s u := by
  cases hframe : answeredFrame t with
  | false =>
    have hrd := rd_eq_zero_of_emptied_front (.inr (.inr ⟨hsync, hframe⟩))
    exact ⟨t, decodePass_of_no_frame hsync sinks hframe, hrd, hright⟩
  | true =>
    have hcompact := exec_of_done (s := t) (i := .compact) rfl hright.inv.cursors.unreadInside
    exact ⟨_, (decodePass_of_sink_full hsync (h hframe) hframe).trans hcompact, rfl,
      hright.trans (.of_exec hright.inv rfl hcompact)⟩

theorem decodePass_runs_right (sinks : List Bool) {s : State} (hinv : s.Inv) :
    ∃ u, decodePass sinks s = .next u ∧ u.rd = 0 ∧ RunsRight s u := by
  induction sinks generalizing s with
  | nil =>
    obtain ⟨t, hsync, hright⟩ := hinv.sync_runs
    exact decodePass_stops hsync hright (by simp)
  | cons ready later ih =>
    obtain ⟨t, hsync, hright⟩ := hinv.sync_runs
    by_cases hgo : answeredFrame t = true ∧ ready = true
    · obtain ⟨hframe, rfl⟩ := hgo
      have htaken := RunsRight.frameTaken hright.inv ((answeredFrame_iff_of_sync hsync).mp hframe)
      obtain ⟨u, hrun, hrd, hlater⟩ := ih htaken.inv
      exact ⟨u, (decodePass_of_sink_ready hsync later hframe hright.inv.wr_le_capacity).trans hrun, hrd,
        hright.trans (htaken.trans hlater)⟩
    · exact decodePass_stops hsync hright (by simpa using hgo)

/-- Settles O57: each round keeps the contract, and the last one compacts. -/
theorem decodePassEndsCompacted : Obligations.DecodePassEndsCompacted := by
  intro sinks s hinv
  obtain ⟨t, hrun, hrd, hright⟩ := decodePass_runs_right sinks hinv
  exact ⟨t, hrun, hrd, hright.fcause_eq, hright.build_eq, hright.inv, hright.answered⟩

/-! ### How many frames a pass takes -/

/-- A pass ends at the first SYNC without FRAME, with less than a frame left (42_sync.md R151). -/
theorem decodePass_ends_of_no_frame {s t : State} (hsync : exec .sync s = .next t) (sinks : List Bool)
    (h : answeredFrame t = false) :
    ∃ u, decodePass sinks s = .next u ∧ u.lenr < u.frameSize ∧ u.rd = 0 := by
  have hshort : t.lenr < t.frameSize := by
    rwa [← Nat.not_le, ← answeredFrame_iff_of_sync hsync, Bool.not_eq_true]
  exact ⟨t, decodePass_of_no_frame hsync sinks h, hshort, rd_eq_zero_of_emptied_front (.inr (.inr ⟨hsync, h⟩))⟩

/-- Each frame taken leaves FRAME_SIZE unread bytes fewer (42_sync.md R153). -/
theorem decodePass_leaves_less_than_frame {k : Nat} {s : State} (hinv : s.Inv) (h : s.lenr < (k + 1) * s.frameSize) :
    ∃ u, decodePass (List.replicate k true) s = .next u ∧ u.lenr < u.frameSize ∧ u.rd = 0 := by
  induction k generalizing s with
  | zero =>
    obtain ⟨t, hsync, -⟩ := hinv.sync_runs
    have hbound : t.lenr < t.frameSize := by
      rw [frameSize_after_sync hsync, ← Nat.one_mul s.frameSize]
      exact (lenr_after_sync_le hsync).trans_lt h
    have hframe : answeredFrame t = false := by
      rwa [← Bool.not_eq_true, answeredFrame_iff_of_sync hsync, Nat.not_le]
    exact decodePass_ends_of_no_frame hsync _ hframe
  | succ k ih =>
    obtain ⟨t, hsync, hright⟩ := hinv.sync_runs
    cases hframe : answeredFrame t with
    | false => exact decodePass_ends_of_no_frame hsync _ hframe
    | true =>
      have hwhole := (answeredFrame_iff_of_sync hsync).mp hframe
      have htaken := RunsRight.frameTaken hright.inv hwhole
      have hbound : t.lenr < (k + 1) * t.frameSize + t.frameSize := by
        rw [frameSize_after_sync hsync, ← Nat.succ_mul]
        exact (lenr_after_sync_le hsync).trans_lt h
      have hless : t.frameTaken.lenr < (k + 1) * t.frameTaken.frameSize := by
        rw [frameTaken_lenr]
        exact Nat.sub_lt_right_of_lt_add hwhole hbound
      obtain ⟨u, hrun, hu⟩ := ih htaken.inv hless
      exact ⟨u, (decodePass_of_sink_ready hsync _ hframe hright.inv.wr_le_capacity).trans hrun, hu⟩

/-- Settles O58: the bound on the frames bounds the unread bytes. -/
theorem decodePassTakesAtMostLenrOverFrameSizeFrames : Obligations.DecodePassTakesAtMostLenrOverFrameSizeFrames := by
  intro k s hinv h
  exact decodePass_leaves_less_than_frame hinv <|
    (Nat.div_lt_iff_lt_mul (frameSize_pos s)).mp (Nat.lt_succ_of_le h)

/-! ### Frames back to back -/

/-- The payload of a raw frame at the start of the unread region (30_encoding.md R65). -/
theorem reportedPayload_of_frame {s : State} {f : Frame} {rest : List Byte}
    (hpayload : f.payload.length = s.build.payloadSize) (h : s.unread = frameBytes f ++ rest) :
    s.reportedPayload = f.payload := by
  rw [State.reportedPayload, h, ← hpayload]
  simp [frameBytes, rawFrame, markerSize]

theorem length_frameBytes_eq_frameSize {s : State} {f : Frame} (h : f.payload.length = s.build.payloadSize) :
    (frameBytes f).length = s.frameSize := by
  rw [length_frameBytes, h]
  rfl

theorem length_flatMap_frameBytes {s : State} {frames : List Frame}
    (h : ∀ f ∈ frames, f.payload.length = s.build.payloadSize) :
    (frames.flatMap frameBytes).length = frames.length * s.frameSize := by
  rw [List.length_flatMap, List.map_congr_left fun f hf => length_frameBytes_eq_frameSize (h f hf)]
  simp

theorem OnlyAnswered.eq_answer {s t : State} {r : Word} (h : OnlyAnswered s t r) : t = s.answer r := by
  obtain ⟨hout, hmem, -, ⟨hrd, hwr⟩, hfcause, hbuild, hdraw, hinput⟩ := h
  cases t
  simp_all [State.answer]

section AlignedFrame

variable {s : State} {f : Frame} {rest : List Byte} (hpayload : f.payload.length = s.build.payloadSize)
  (hunread : s.unread = frameBytes f ++ rest)
include hpayload hunread

/-- SYNC reports a frame at the start of the unread region, and the pass takes it (42_sync.md R151, R152). -/
theorem decodePass_takes_aligned_frame (later : List Bool) (hwr : s.wr ≤ s.build.capacity) :
    decodePass (true :: later) s = decodePass later (s.answer (doneWord .found f.seq s.lenr)).frameTaken := by
  obtain ⟨t, hsync, hanswer⟩ := alignedFrameIsReportedWhateverItHolds s f rest hwr hpayload hunread
  obtain rfl := hanswer.eq_answer
  have hframe : answeredFrame (s.answer (doneWord .found f.seq s.lenr)) = true := by simp [answeredFrame]
  exact decodePass_of_sink_ready hsync later hframe hwr

theorem output_of_aligned_frame_taken (r : Word) :
    (s.answer r).frameTaken.output = s.output ++ r :: frameResponses f.payload := by
  have hreported : (s.answer r).reportedPayload = f.payload := reportedPayload_of_frame hpayload hunread
  rw [State.frameTaken, hreported, State.answer_output, List.append_assoc, List.singleton_append]

theorem unread_of_aligned_frame_taken (r : Word) : (s.answer r).frameTaken.unread = rest := by
  rw [frameTaken_unread, State.answer_unread, State.answer_frameSize, hunread]
  exact List.drop_left' (length_frameBytes_eq_frameSize hpayload)

end AlignedFrame

/-- An empty block answers NOSYNC with nothing left, and the pass is over (42_sync.md R151, R152). -/
theorem decodePass_of_unread_nil {s : State} (sinks : List Bool) (hcur : s.CursorsInStore) (h : s.unread = []) :
    ∃ t, decodePass sinks s = .next t ∧ t.output = s.output ++ [doneWord .nothing 0 0] ∧ t.rd = 0 ∧ t.wr = 0 ∧
      t.fcause = s.fcause := by
  have hscan : scan s.unread = ⟨false, 0, 0⟩ := by rw [h, scan_nil]
  obtain ⟨hrdwr, hwrC⟩ := hcur
  obtain ⟨t, hsync, hfcause, -, -, hnosync, -⟩ := syncHasThreeOutcomes s hrdwr hwrC
  rw [hscan] at hnosync
  obtain ⟨hout, -, hrd, hwr, -⟩ := hnosync rfl
  have hframe : answeredFrame t = false := by
    rw [← Bool.not_eq_true, answeredFrame_iff_of_sync hsync, lenr_after_sync hsync, hscan, Nat.not_le]
    exact frameSize_pos t
  exact ⟨t, decodePass_of_no_frame hsync sinks hframe, hout, hrd, hwr, hfcause⟩

/-- Settles O59: one round takes the first frame and leaves the others, and the last SYNC finds nothing. -/
theorem alignedStreamDecodesFrameByFrame : Obligations.AlignedStreamDecodesFrameByFrame := by
  intro frames
  induction frames with
  | nil => exact fun s hinv _ hunread => decodePass_of_unread_nil [] hinv.cursors hunread
  | cons f rest ih =>
    intro s hinv hpayloads hunread
    have hlenr : s.lenr = (rest.length + 1) * s.frameSize := by
      rw [← length_unread, hunread, length_flatMap_frameBytes hpayloads, List.length_cons]
    rw [List.flatMap_cons] at hunread
    have hpayload := hpayloads f List.mem_cons_self
    have hround := decodePass_takes_aligned_frame hpayload hunread (List.replicate rest.length true) hinv.wr_le_capacity
    have hwhole : s.frameSize ≤ s.lenr := hlenr ▸ Nat.le_mul_of_pos_left _ (Nat.succ_pos _)
    have htaken := RunsRight.frameTaken (hinv.answer (doneWord .found f.seq s.lenr)) hwhole
    obtain ⟨t, hrun, hout, hrd, hwr, hfcause⟩ := ih _ htaken.inv
      (fun g hg => hpayloads g (List.mem_cons_of_mem f hg)) (unread_of_aligned_frame_taken hpayload hunread _)
    refine ⟨t, hround.trans hrun, ?_, hrd, hwr, hfcause⟩
    rw [hout, output_of_aligned_frame_taken hpayload hunread, hlenr, frameResponses, List.append_assoc,
      List.cons_append, List.append_assoc, List.singleton_append]
    rfl

end Sys2Proof.Machine

/-! SUPPORT. 43_system.md: STAT (R170) and reset (R171), and what a whole run keeps. -/

namespace Sys2Proof.Machine

/-! ### STAT -/

/-- Settles O32: STAT is never refused, and a 3-bit code fits field VAL. -/
theorem statAnswersFaultCode : Obligations.StatAnswersFaultCode := by
  intro s
  have hfits : s.fcause.toNat < 65536 := s.fcause.isLt.trans (by decide)
  exact ⟨_, exec_of_done rfl trivial, onlyAnswered_answer s _, rspVal_answer_of_lt s hfits⟩

/-! ### Reset -/

theorem step_of_input_reset {s : State} {abandoned : Option Word} {rest : List HostEvent}
    (h : s.input = .reset abandoned :: rest) : step s = .next (s.afterReset rest) := by
  simp only [step, h, takeEvent]

/-- Settles O5: the reset state has an empty listing, which reads as the new draw's free value everywhere. -/
theorem rstInputGivesResetState : Obligations.RstInputGivesResetState := fun s _ rest hinput =>
  ⟨s.afterReset rest, step_of_input_reset hinput, rfl, rfl, rfl, rfl, rfl, rfl, s.draw.succ_ne_self,
    fun i => Memory.read_nil _ i⟩

/-! ### What a run keeps -/

theorem run_succ_eq_next_iff {k : Nat} {s t : State} :
    Sys2Proof.core.run (k + 1) s = .next t ↔ ∃ u, step s = .next u ∧ Sys2Proof.core.run k u = .next t := by
  constructor
  · intro h
    simp only [Host.Core.run] at h
    split at h
    next u hstep => exact ⟨u, hstep, h⟩
    next => cases h
    next => cases h
  · rintro ⟨u, hstep, hrun⟩
    exact (run_succ_of_step hstep).trans hrun

/-- What every step keeps, every run keeps. -/
theorem run_keeps {P : State → Prop} (hkeep : ∀ {s t : State}, P s → step s = .next t → P t) {k : Nat} {s t : State}
    (hs : P s) (hrun : Sys2Proof.core.run k s = .next t) : P t := by
  induction k generalizing s with
  | zero => exact Host.Outcome.next.inj hrun ▸ hs
  | succ k ih =>
    obtain ⟨u, hstep, hrest⟩ := run_succ_eq_next_iff.mp hrun
    exact ih (hkeep hs hstep) hrest

theorem OnlyCommands.noResetNext {s : State} (h : OnlyCommands s) : NoResetNext s := by
  intro a hhead
  obtain ⟨w, hw⟩ := h _ (List.mem_of_mem_head? hhead)
  cases hw

/-- A step only takes from the input (10_state.md R30). -/
theorem step_input_subset {s t : State} (h : step s = .next t) : t.input ⊆ s.input := by
  obtain rfl | ⟨a, rest, hinput, rfl⟩ | ⟨w, rest, hinput, hperform⟩ := step_cases h
  · exact List.Subset.refl _
  · rw [hinput]
    exact List.subset_cons_self _ rest
  · obtain ⟨hrest, -⟩ := perform_answers_once hperform
    rw [hinput, hrest]
    exact List.subset_cons_self _ rest

theorem OnlyCommands.after_step {s t : State} (h : OnlyCommands s) (hstep : step s = .next t) : OnlyCommands t :=
  fun e he => h e (step_input_subset hstep he)

/-- A run of commands keeps the log of the first refusal (60_exceptions.md R182): no step of it asserts `rst`. -/
theorem State.FaultLoggedSince.after_run {before : List Word} {k : Nat} {s t : State} (h : s.FaultLoggedSince before)
    (hcommands : OnlyCommands s) (hrun : Sys2Proof.core.run k s = .next t) : t.FaultLoggedSince before := by
  obtain ⟨hstepLogged, -⟩ := faultCodeIsFirstRefusalSinceReset
  obtain ⟨-, hlogged⟩ : OnlyCommands t ∧ t.FaultLoggedSince before :=
    run_keeps (P := fun u => OnlyCommands u ∧ u.FaultLoggedSince before)
      (fun ⟨hcmd, hlog⟩ hstep => ⟨hcmd.after_step hstep, hstepLogged before _ _ hlog hcmd.noResetNext hstep⟩)
      ⟨hcommands, h⟩ hrun
  exact hlogged

/-- Settles O14: with no fault the log starts empty, the run keeps it, and STAT answers the code it determines. -/
theorem statAnswersFirstRefusalOfTheRun : Obligations.StatAnswersFirstRefusalOfTheRun := by
  intro k s t hfcause hcommands hrun
  obtain ⟨since, hout, hfirst, -⟩ := (faultLoggedSince_output hfcause).after_run hcommands hrun
  obtain ⟨u, hstat, hanswered, -⟩ := statAnswersFaultCode t
  exact ⟨since, hout, hfirst, u, hstat, hfirst ▸ hanswered⟩

end Sys2Proof.Machine

/-! SUPPORT. 60_exceptions.md: what a refusal leaves (R181, R183), and the first cause sticks (R182). -/

namespace Sys2Proof.Machine

/-! ### Words that answer REFUSED -/

/-- Settles O7: the word leaves the input, and performing a word that is no command raises ILLEGAL_CMD. -/
theorem stepRefusesIllegalWord : Obligations.StepRefusesIllegalWord := by
  intro s w rest e hinput hdecode
  obtain ⟨t, hperform, hrefused⟩ := perform_of_decode_error hdecode (s.setInput rest)
  exact ⟨t, (step_of_input_command hinput).trans hperform, hrefused⟩

/-- REFUSED = 1 comes from `raise Fault(c)` alone: a command that is carried out answers REFUSED = 0. -/
theorem Effect.eq_afterFault {s t : State} {i : Instr} (h : Effect s i t) (hrefused : rspRefused t.lastResponse = true) :
    ∃ c, t = s.afterFault c := by
  cases h with
  | refused c hc => exact ⟨c, rfl⟩
  | done hnone hin =>
    rw [State.answer_lastResponse, rspRefused_answerOf] at hrefused
    cases hrefused

theorem perform_eq_afterFault {w : Word} {s t : State} (h : perform w s = .next t)
    (hrefused : rspRefused t.lastResponse = true) : ∃ c, t = s.afterFault c := by
  obtain ⟨e, -, rfl⟩ | ⟨i, -, heffect⟩ := perform_eq_next_iff.mp h
  · exact ⟨.illegalCmd, rfl⟩
  · exact heffect.eq_afterFault hrefused

/-- Settles O12: a command or a word that answers REFUSED has raised a fault, which has the frame of R181. -/
theorem refusedCommandChangesNothingElse : Obligations.RefusedCommandChangesNothingElse := by
  constructor
  · intro i s t h hrefused
    obtain ⟨c, rfl⟩ := (exec_eq_next_iff.mp h).eq_afterFault hrefused
    exact ⟨c, refused_afterFault c s⟩
  · intro w s t h hrefused
    obtain ⟨c, rfl⟩ := perform_eq_afterFault h hrefused
    exact ⟨c, refused_afterFault c s⟩

/-! ### The first cause sticks -/

theorem rspCause_afterFault (c : Cause) (s : State) : rspCause (s.afterFault c).lastResponse = c.code := by
  rw [State.afterFault_lastResponse, rspCause_refusedWord]

theorem latchCause_of_ne_zero (c : Cause) {f : BitVec 3} (h : f ≠ 0) : latchCause c f = f := if_neg h

/-- No word changes a cause that is latched (60_exceptions.md R182). -/
theorem fcause_of_perform {w : Word} {s t : State} (hlatched : s.fcause ≠ 0) (h : perform w s = .next t) :
    t.fcause = s.fcause :=
  perform_keeps (P := fun u => u.fcause = s.fcause)
    (fun u c hu => by rw [State.afterFault_fcause, hu, latchCause_of_ne_zero c hlatched])
    (fun u i hu _ => by rw [State.answer_fcause, carriedOut_fcause, hu]) rfl h

/-- No step but an assertion of `rst` changes it. -/
theorem fcause_of_step {s t : State} (hnoReset : NoResetNext s) (hlatched : s.fcause ≠ 0) (h : step s = .next t) :
    t.fcause = s.fcause := by
  obtain rfl | ⟨a, rest, hinput, -⟩ | ⟨w, rest, -, hperform⟩ := step_cases h
  · rfl
  · exact absurd (by rw [hinput, List.head?_cons]) (hnoReset a)
  · exact fcause_of_perform (s := s.setInput rest) hlatched hperform

/-- Settles O13: a refusal latches, a latched cause stays through every step but `rst`, and `rst` clears it. -/
theorem firstCauseSticksUntilReset : Obligations.FirstCauseSticksUntilReset := by
  refine ⟨fun c s => ⟨s.afterFault c, rfl, refused_afterFault c s, rspCause_afterFault c s⟩, ?_,
    fun _ _ => fcause_of_step, ?_⟩
  · intro w s t h hrefused
    obtain ⟨c, rfl⟩ := perform_eq_afterFault h hrefused
    rw [rspCause_afterFault]
    exact ⟨rfl, c, rfl⟩
  · intro s t abandoned rest hinput h
    obtain rfl : s.afterReset rest = t := Host.Outcome.next.inj ((step_of_input_reset hinput).symm.trans h)
    rfl

end Sys2Proof.Machine

/-! SUPPORT. 70_reset_and_hazards.md: the block waits for the host (R200). -/

namespace Sys2Proof.Machine

/-- The third kind of step, beside `step_of_input_reset` and `step_of_input_command`: nothing is offered, so there is
nothing to take. -/
theorem step_of_input_nil {s : State} (h : s.input = []) : step s = .next s := by
  simp only [step, h]

/-- Settles O8: the branch of `step` on an empty input (log entry 4). -/
theorem stepWithNothingOfferedWaits : Obligations.StepWithNothingOfferedWaits := fun _ => step_of_input_nil

end Sys2Proof.Machine
